-- ==== Sys2Proof/Word.lean ====
section
/-! DEFINITION. The widths of the Leonhard x64 SPU: structure numbers, keys, values, tag data, command
slots and 32-bit register parts (spec/00_scope.md R4, R5; spec/10_state.md R37). -/

namespace Sys2Proof

/-- A structure number, 3 bits; the valid values are 1 to 7 (R5). -/
abbrev StrNo := BitVec 3

/-- A key, KEY_VAL = 64 bits (R4). -/
abbrev Key := BitVec 64

/-- A value, DATA_VAL = 64 bits (R4). -/
abbrev Value := BitVec 64

/-- A datum the CPU sends through a tag register, 64 bits (R246). -/
abbrev Datum := BitVec 64

/-- One LCM command slot, CMD_MISD_VAL = 144 bits (R4, R28). -/
abbrev Slot := BitVec 144

/-- One 32-bit part of the register window (R37). -/
abbrev Reg := BitVec 32

/-- The content of one structure: pairs of key and value, keys strictly rising in the unsigned order
(R21); that order is an invariant, `PairMap.Sorted`. -/
abbrev PairMap := List (Key × Value)

/-- The local command memory: pairs of slot address and slot image, addresses strictly rising; a slot
that is not listed was never written and holds no value (R28). -/
abbrev Memory := List (Nat × Slot)

end Sys2Proof
end

