-- ==== Sys2Proof/Config.lean ====
section
/-! DEFINITION. What an implementation fixes and what the manual leaves open: the constants of Table 1.2
(spec/00_scope.md R4), the open parameters (R7) as plain data, and the free values, constants without a
body that nothing can evaluate (spec/93_implementation_defined.md sections 1 and 2; log 1, log 2). -/

namespace Sys2Proof

/-- STR_NUM, the number of structures (R4). -/
abbrev Config.strNum : Nat := 7

/-- VIRT_NUM, the multiplicity of a B+ tree vertex (R4); the tree itself is out of scope (R8, R19). -/
abbrev Config.virtNum : Nat := 8

/-- LEAF_NUM, the keys at the lowest level of the tree (R4). -/
abbrev Config.leafNum : Nat := 6

/-- STR_VAL, the most keys a structure may hold (R4, R23): LEAF_NUM x VIRT_NUM^8 (R6). -/
def Config.strVal : Nat := Config.leafNum * Config.virtNum ^ 8

/-- CMD_MISD_VAL, the bits of an LCM slot (R4). -/
abbrev Config.cmdMisdVal : Nat := 144

/-- CMD_CPU_VAL, the most bits of a command from the CPU: the CMD word, a key and a value (R4, R121). -/
abbrev Config.cmdCpuVal : Nat := 160

/-- REZ_VAL, the bits of one result data field (R4; C13). -/
abbrev Config.rezVal : Nat := 64

/-- KEY_VAL, the bits of the key field (R4). -/
abbrev Config.keyVal : Nat := 64

/-- DATA_VAL, the bits of the value field (R4). -/
abbrev Config.dataVal : Nat := 64

/-- EXT_MEM, the bytes of the external structure memory, 4 GBytes (R4); its layout is out of scope (R19). -/
abbrev Config.extMem : Nat := 4 * 2 ^ 30

/-- The values of the parameter MSB, the placement of bytes in memory (R4). -/
inductive ByteOrder where
  | littleEndian
  | bigEndian
deriving DecidableEq, Repr

/-- MSB: the low byte is at the low address (R4; spec/20_memory.md R87). -/
abbrev Config.msb : ByteOrder := .littleEndian

/-- CMD_BIT_ORDER: which end of the slot the first-listed field occupies (R112, D1). -/
inductive BitOrder where
  | firstFieldHigh
  | firstFieldLow
deriving DecidableEq, Repr, Inhabited

/-- SETOP_PAIRING: which of AND and OR is the union (R193, D11). -/
inductive SetopPairing where
  | asWritten
  | byName
deriving DecidableEq, Repr, Inhabited

/-- The answers of the oracle ins_space (R153, D16). -/
inductive InsSpace where
  | ok
  | evict
  | fail
deriving DecidableEq, Repr, Inhabited

/-- The answers of the oracle setop_space (R192, D16). -/
inductive SetopSpace where
  | ok
  | fail
deriving DecidableEq, Repr, Inhabited

/-- The completion causes (spec/60_exceptions.md R261). -/
inductive Cause where
  | ok
  | okInserted
  | okUpdated
  | eNoStruct
  | eNoKey
  | eNoNeighbour
  | eEvicted
  | eNoSpace
  | eRExists
deriving DecidableEq, Repr, Inhabited

/-- CMD_REG_LAYOUT (R121, D22): for each field of the CMD word the word's bits that make it up, the
field's least significant bit first. DESIGN CHOICE: a layout is a choice of bits (log 24). -/
structure CmdLayout where
  opc : List Nat
  q : List Nat
  s0 : List Nat
  s1 : List Nat
  s2 : List Nat
deriving DecidableEq, Repr

/-- The open parameters of R7, a depth for the queue PCI2SYS (log 5) and the platform input DDR_BIST (R65). -/
structure Params where
  /-- CMD_BIT_ORDER (D1). -/
  bitOrder : BitOrder
  /-- OPC_JT (D2). -/
  opcJt : BitVec 5
  /-- JT_LAYOUT, the offset of ADDR (D3). -/
  jtOff : Nat
  /-- JT_ADDR_BITS (D3). -/
  jtAddrBits : Nat
  /-- EMPTY_EXISTS (D10). -/
  emptyExists : Bool
  /-- SETOP_PAIRING (D11). -/
  pairing : SetopPairing
  /-- IP_BITS (D18). -/
  ipBits : Nat
  /-- LCM_SLOTS (D18). -/
  lcmSlots : Nat
  /-- CMD_REG_LAYOUT (D22). -/
  cmdLayout : CmdLayout
  /-- C2S_DEPTH (D23). -/
  c2sDepth : Nat
  /-- S2C_DEPTH (D24). -/
  s2cDepth : Nat
  /-- The depth of PCI2SYS, which no source gives (N9); read only by STATE1 bit 1. -/
  pci2sysDepth : Nat
  /-- STATE1_OFFSET (D27). -/
  state1Offset : Nat
  /-- DDR_BIST, a platform input (R65). -/
  ddrBist : Bool
deriving DecidableEq, Repr

/-- A CMD layout names existing bits, as many as each field has. -/
abbrev CmdLayout.wf (l : CmdLayout) : Prop :=
  l.opc.length = 5 ∧ l.q.length = 1 ∧ l.s0.length = 3 ∧ l.s1.length = 3 ∧ l.s2.length = 3 ∧
    ∀ b ∈ l.opc ++ l.q ++ l.s0 ++ l.s1 ++ l.s2, b < 32

/-- The admissible values of the parameters (spec/92_eei_decisions.md, open parameters). -/
abbrev Params.wf (p : Params) : Prop :=
  (p.opcJt = 0 ∨ 0x14#5 ≤ p.opcJt) ∧
  9 ≤ p.jtOff ∧ 1 ≤ p.jtAddrBits ∧ p.jtOff + p.jtAddrBits ≤ Config.cmdMisdVal ∧
  p.lcmSlots ≤ 2 ^ p.ipBits ∧
  p.cmdLayout.wf ∧
  1 ≤ p.c2sDepth ∧ 1 ≤ p.s2cDepth ∧ 1 ≤ p.pci2sysDepth ∧
  (p.state1Offset = 0x94 ∨ p.state1Offset = 0x98 ∨ p.state1Offset = 0x9C)

/-! ### Free values

Each is applied to the number of a draw (`State.draws`), which every step advances. -/

/-- ANY(64) for a key field no rule gives (R14, R238). -/
opaque Config.anyKey : Nat → Key

/-- ANY(64) for a value field no rule gives (R14, R238). -/
opaque Config.anyValue : Nat → Value

/-- ANY(32) for LAST.power after a reset (R75). -/
opaque Config.anyPower : Nat → Reg

/-- ANY(8) for LAST.code after a reset (R75). -/
opaque Config.anyCode : Nat → BitVec 8

/-- ANY for LAST.V after a reset (R75). -/
opaque Config.anyV : Nat → Bool

/-- ANY(32) for a register read, or for the bits of it that no rule gives (R39, R60, R70, R241). -/
opaque Config.anyWord : Nat → Reg

/-- SYSMON_DATA, ANY(16) at every read (R277). -/
opaque Config.anySysmon : Nat → BitVec 16

/-- The host-written 32-bit parts after a hardware reset (R75): draw number, then which part. -/
opaque Config.anyReg : Nat → Nat → Reg

/-- TSC after a hardware reset (R75). -/
opaque Config.anyTsc : Nat → BitVec 64

/-- How far TSC grows in a step while it is enabled (R275, D36). -/
opaque Config.tscGrowth : Nat → Nat

/-- The oracle ins_space once `State.insAnswers` is used up (D16). -/
opaque Config.insSpace : Nat → InsSpace

/-- The oracle setop_space once `State.setopAnswers` is used up (D16). -/
opaque Config.setopSpace : Nat → SetopSpace

/-- Whether A's value is kept for a key both sources hold (R191, D13): draw number, then key. -/
opaque Config.keepsA : Nat → Key → Bool

/-- Whether E_R_EXISTS is the cause reported when E_NO_STRUCT applies too (R192, D43). -/
opaque Config.reportsRExists : Nat → Bool

/-- Structure R after E_NO_SPACE (U7): absent, or the pairs it is built from. -/
opaque Config.anyStructure : Nat → Option (List (Key × Value))

/-- What a write of LCMR_ADR or LSMR_ADR puts into the local-memory read queue (R252, N13). -/
opaque Config.dmaData : Nat → List (BitVec 512)

/-- Which of several enabled agents moves when `State.turns` does not say (R91, D17). -/
opaque Config.nextAgent : Nat → Nat

/-- A choice of numeric completion codes, from which `Machine.errCode` takes ERRCODE (R262, D15). -/
opaque Config.errCodeChoice : Cause → Nat

/-- RESULT_LAYOUT: completion code, V and R to the 8-bit result code (R122, D15). -/
opaque Config.resultLayout : Nat → Bool → Bool → BitVec 8

end Sys2Proof
end

