-- ==== Sys2Proof/Machine/Params.lean ====
section
/-! DEFINITION. The parameter values of the machine right after reset, `State.reset`. Every one is a DESIGN
CHOICE (log 1); the state holds the parameters, so statements about every state hold for every value. -/

namespace Sys2Proof.Machine

/-- The suggested CMD_REG_LAYOUT, the fields of format F-RAB in a 32-bit word (spec/92_eei_decisions.md
D22), for either bit order. DESIGN CHOICE (log 1). -/
def suggestedCmdLayout : BitOrder → CmdLayout
  | .firstFieldHigh =>
    { opc := [27, 28, 29, 30, 31], q := [23], s0 := [16, 17, 18], s1 := [8, 9, 10], s2 := [0, 1, 2] }
  | .firstFieldLow =>
    { opc := [0, 1, 2, 3, 4], q := [8], s0 := [13, 14, 15], s1 := [21, 22, 23], s2 := [29, 30, 31] }

/-- One admissible instance of the open parameters. The bit order is the one whose match and mask
spec/opcode_table.json lists first; OPC_JT and the JT layout are the illustrative instance of
spec/95_test_vectors.md section 0. DESIGN CHOICE, unsafe (log 1). -/
def prototypeParams : Params where
  bitOrder := .firstFieldHigh
  opcJt := 0x14
  jtOff := 9
  jtAddrBits := 16
  emptyExists := false
  pairing := .asWritten
  ipBits := 16
  lcmSlots := 65536
  cmdLayout := suggestedCmdLayout .firstFieldHigh
  c2sDepth := 16
  s2cDepth := 16
  pci2sysDepth := 16
  state1Offset := 0x94
  ddrBist := true

end Sys2Proof.Machine
end

