-- ==== Sys2Proof/Syntax.lean ====
section
/-! DEFINITION. The 20 commands (spec/30_encoding.md R116), one constructor per row of
spec/opcode_table.json, with operands as R114 and R120 give them. -/

namespace Sys2Proof

/-- An operand of a command (R114): its tag is 1 and the field holds the value, or its tag is 0 (written
`?`) and the CPU sends it. A field whose tag is 0 is ignored, so it is not kept. -/
inductive Operand (α : Type) where
  | given (v : α)
  | awaited
deriving DecidableEq, Repr

/-- The tag bit of an operand (R114). -/
def Operand.tag {α : Type} : Operand α → Bool
  | .given _ => true
  | .awaited => false

/-- The content an assembler gives the operand's field: 0 when the tag is 0 (R125, D7). -/
def Operand.fieldOr {α : Type} (zero : α) : Operand α → α
  | .given v => v
  | .awaited => zero

/-- A command. `q` is the Q bit (R115); operands stand in field order (R113). -/
inductive Instr where
  | del (q : Bool) (str : Operand StrNo) (key : Operand Key)
  | ins (q : Bool) (str : Operand StrNo) (key : Operand Key) (value : Operand Value)
  | min (q : Bool) (str : Operand StrNo)
  | max (q : Bool) (str : Operand StrNo)
  | srch (q : Bool) (str : Operand StrNo) (key : Operand Key)
  | sq (q : Bool) (str : Operand StrNo)
  | cnt (q : Bool) (str : Operand StrNo)
  | or (q : Bool) (r a b : Operand StrNo)
  | and (q : Bool) (r a b : Operand StrNo)
  | not (q : Bool) (r a b : Operand StrNo)
  | lseq (q : Bool) (r a : Operand StrNo) (key : Operand Key)
  | ls (q : Bool) (r a : Operand StrNo) (key : Operand Key)
  | greq (q : Bool) (r a : Operand StrNo) (key : Operand Key)
  | gr (q : Bool) (r a : Operand StrNo) (key : Operand Key)
  | dels (q : Bool) (str : Operand StrNo)
  | next (q : Bool) (str : Operand StrNo) (key : Operand Key)
  | prev (q : Bool) (str : Operand StrNo) (key : Operand Key)
  | nsm (q : Bool) (str : Operand StrNo) (key : Operand Key)
  | ngr (q : Bool) (str : Operand StrNo) (key : Operand Key)
  /-- `t0` is the tag bit T0, which is the branch tag itself: true is "tag present and equal to one"
  (R215). JT has no Q bit (R115). `addr` is an LCM command address. -/
  | jt (t0 : Bool) (addr : Operand Nat)
deriving DecidableEq, Repr

end Sys2Proof
end

