-- ==== Sys2Proof/WellFormed.lean ====
section
/-! DEFINITION. Which commands are well formed: structure numbers are 1 to 7 (spec/00_scope.md R5) and a JT
address fits its field (spec/30_encoding.md R113). -/

namespace Sys2Proof

/-- A structure operand names a structure 1 to 7, or awaits one (R5). -/
abbrev Operand.wfStr (o : Operand StrNo) : Prop := o ≠ .given 0#3

/-- A JT address fits JT_ADDR_BITS bits (R113). -/
abbrev Operand.wfAddr (p : Params) (o : Operand Nat) : Prop := o.fieldOr 0 < 2 ^ p.jtAddrBits

/-- Whether a command of a machine with the parameters `p` is well formed. -/
def Instr.wellFormed (p : Params) : Instr → Bool
  | .del _ str _ => decide str.wfStr
  | .ins _ str _ _ => decide str.wfStr
  | .min _ str => decide str.wfStr
  | .max _ str => decide str.wfStr
  | .srch _ str _ => decide str.wfStr
  | .sq _ str => decide str.wfStr
  | .cnt _ str => decide str.wfStr
  | .or _ r a b => decide (r.wfStr ∧ a.wfStr ∧ b.wfStr)
  | .and _ r a b => decide (r.wfStr ∧ a.wfStr ∧ b.wfStr)
  | .not _ r a b => decide (r.wfStr ∧ a.wfStr ∧ b.wfStr)
  | .lseq _ r a _ => decide (r.wfStr ∧ a.wfStr)
  | .ls _ r a _ => decide (r.wfStr ∧ a.wfStr)
  | .greq _ r a _ => decide (r.wfStr ∧ a.wfStr)
  | .gr _ r a _ => decide (r.wfStr ∧ a.wfStr)
  | .dels _ str => decide str.wfStr
  | .next _ str _ => decide str.wfStr
  | .prev _ str _ => decide str.wfStr
  | .nsm _ str _ => decide str.wfStr
  | .ngr _ str _ => decide str.wfStr
  | .jt _ addr => decide (addr.wfAddr p)

end Sys2Proof
end

