-- ==== Sys2Proof/Decode.lean ====
section
/-! DEFINITION. Decoding and encoding of commands: the 144-bit LCM slot (spec/30_encoding.md R110 to R120,
R125) in either bit order, the CPU's CMD word (R121, R233), and the numbering of spec/opcode_table.json. -/

namespace Sys2Proof

/-! ### Fields of a slot -/

/-- The slot bit at which a field of width `w` at offset `off` has its least significant bit (R112). -/
def fieldLo : BitOrder → (off w : Nat) → Nat
  | .firstFieldHigh, off, w => Config.cmdMisdVal - off - w
  | .firstFieldLow, off, _ => off

/-- The field of width `w` at offset `off` (R112). -/
def field (o : BitOrder) (off w : Nat) (slot : Slot) : BitVec w :=
  slot.extractLsb' (fieldLo o off w) w

/-- A slot that holds `v` in the field at offset `off` and 0 elsewhere (R112). -/
def place (o : BitOrder) (off : Nat) {w : Nat} (v : BitVec w) : Slot :=
  v.setWidth Config.cmdMisdVal <<< fieldLo o off w

/-- A one-bit field (R111). -/
def bitAt (o : BitOrder) (off : Nat) (slot : Slot) : Bool :=
  field o off 1 slot == 1#1

/-- A slot that holds `b` in the one-bit field at offset `off` and 0 elsewhere. -/
def placeBit (o : BitOrder) (off : Nat) (b : Bool) : Slot :=
  place o off (BitVec.ofBool b)

/-- An operand from its tag bit and its field (R114). -/
def operandOf {α : Type} (tag : Bool) (v : α) : Operand α :=
  if tag then .given v else .awaited

/-! ### Formats (R113) -/

/-- The six command formats (R113). -/
inductive Format where
  | fS
  | fSK
  | fSKV
  | fRAB
  | fRAK
  | fJT
deriving DecidableEq, Repr

/-- The length of a format's fields in bits (R113). -/
def Format.bits (p : Params) : Format → Nat
  | .fS => 16
  | .fSK => 80
  | .fSKV => 144
  | .fRAB => 32
  | .fRAK => 88
  | .fJT => p.jtOff + p.jtAddrBits

/-- The fields of a format after the header, offset and width, unused fields included (R113). -/
def Format.operandFields (p : Params) : Format → List (Nat × Nat)
  | .fS => [(9, 4), (13, 3)]
  | .fSK => [(9, 4), (13, 3), (16, 64)]
  | .fSKV => [(9, 4), (13, 3), (16, 64), (80, 64)]
  | .fRAB => [(9, 4), (13, 3), (16, 5), (21, 3), (24, 5), (29, 3)]
  | .fRAK => [(9, 4), (13, 3), (16, 5), (21, 3), (24, 64)]
  | .fJT => [(p.jtOff, p.jtAddrBits)]

/-- The header OPC, T2, T1, T0, Q of every MISD command, offset and width (R111). -/
def headerFields : List (Nat × Nat) := [(0, 5), (5, 1), (6, 1), (7, 1), (8, 1)]

/-- The format of an opcode (R116, R118); none for an unassigned one (R119). -/
def formatOf (p : Params) (opc : BitVec 5) : Option Format :=
  match opc.toNat with
  | 0x01 => some .fSK
  | 0x02 => some .fSKV
  | 0x03 => some .fS
  | 0x04 => some .fS
  | 0x05 => some .fSK
  | 0x06 => some .fS
  | 0x07 => some .fS
  | 0x08 => some .fRAB
  | 0x09 => some .fRAB
  | 0x0A => some .fRAB
  | 0x0B => some .fRAK
  | 0x0C => some .fRAK
  | 0x0D => some .fRAK
  | 0x0E => some .fRAK
  | 0x0F => some .fS
  | 0x10 => some .fSK
  | 0x11 => some .fSK
  | 0x12 => some .fSK
  | 0x13 => some .fSK
  | _ => if opc = p.opcJt then some .fJT else none

/-! ### Decoding a slot -/

/-- Why a slot decodes to no command (R119, U2). -/
inductive DecodeError where
  /-- OPC is neither one of the 19 assigned values nor OPC_JT. -/
  | unassignedOpcode (opc : BitVec 5)
deriving DecidableEq, Repr

/-- Operand 0 of the data commands, STR or R: offset 13, guarded by T0 (R113, R114). -/
def operand0 (o : BitOrder) (slot : Slot) : Operand StrNo :=
  operandOf (bitAt o 7 slot) (field o 13 3 slot)

/-- KEY of F-SK and F-SKV: offset 16, guarded by T1 (R113, R114). -/
def operandKey (o : BitOrder) (slot : Slot) : Operand Key :=
  operandOf (bitAt o 6 slot) (field o 16 64 slot)

/-- VALUE of F-SKV: offset 80, guarded by T2 (R113, R114). -/
def operandValue (o : BitOrder) (slot : Slot) : Operand Value :=
  operandOf (bitAt o 5 slot) (field o 80 64 slot)

/-- A of F-RAB and F-RAK: offset 21, guarded by T1 (R113, R114). -/
def operandA (o : BitOrder) (slot : Slot) : Operand StrNo :=
  operandOf (bitAt o 6 slot) (field o 21 3 slot)

/-- B of F-RAB: offset 29, guarded by T2 (R113, R114). -/
def operandB (o : BitOrder) (slot : Slot) : Operand StrNo :=
  operandOf (bitAt o 5 slot) (field o 29 3 slot)

/-- KEY of F-RAK: offset 24, guarded by T2 (R113, R114). -/
def operandSliceKey (o : BitOrder) (slot : Slot) : Operand Key :=
  operandOf (bitAt o 5 slot) (field o 24 64 slot)

/-- ADDR of F-JT, guarded by T1 (R113, R114). -/
def operandAddr (p : Params) (slot : Slot) : Operand Nat :=
  operandOf (bitAt p.bitOrder 6 slot) (field p.bitOrder p.jtOff p.jtAddrBits slot).toNat

/-- The command a slot holds (R118): OPC selects the format, bits of no field of it are ignored (R117). -/
def decode (p : Params) (slot : Slot) : Except DecodeError Instr :=
  let o := p.bitOrder
  let opc := field o 0 5 slot
  let q := bitAt o 8 slot
  match opc.toNat with
  | 0x01 => .ok (.del q (operand0 o slot) (operandKey o slot))
  | 0x02 => .ok (.ins q (operand0 o slot) (operandKey o slot) (operandValue o slot))
  | 0x03 => .ok (.min q (operand0 o slot))
  | 0x04 => .ok (.max q (operand0 o slot))
  | 0x05 => .ok (.srch q (operand0 o slot) (operandKey o slot))
  | 0x06 => .ok (.sq q (operand0 o slot))
  | 0x07 => .ok (.cnt q (operand0 o slot))
  | 0x08 => .ok (.or q (operand0 o slot) (operandA o slot) (operandB o slot))
  | 0x09 => .ok (.and q (operand0 o slot) (operandA o slot) (operandB o slot))
  | 0x0A => .ok (.not q (operand0 o slot) (operandA o slot) (operandB o slot))
  | 0x0B => .ok (.lseq q (operand0 o slot) (operandA o slot) (operandSliceKey o slot))
  | 0x0C => .ok (.ls q (operand0 o slot) (operandA o slot) (operandSliceKey o slot))
  | 0x0D => .ok (.greq q (operand0 o slot) (operandA o slot) (operandSliceKey o slot))
  | 0x0E => .ok (.gr q (operand0 o slot) (operandA o slot) (operandSliceKey o slot))
  | 0x0F => .ok (.dels q (operand0 o slot))
  | 0x10 => .ok (.next q (operand0 o slot) (operandKey o slot))
  | 0x11 => .ok (.prev q (operand0 o slot) (operandKey o slot))
  | 0x12 => .ok (.nsm q (operand0 o slot) (operandKey o slot))
  | 0x13 => .ok (.ngr q (operand0 o slot) (operandKey o slot))
  | _ => if opc = p.opcJt then .ok (.jt (bitAt o 7 slot) (operandAddr p slot))
         else .error (.unassignedOpcode opc)

/-! ### Encoding into a slot

The assembler's convention (R117, R125, D7): 0 in unused fields and in fields whose tag is 0, 1 in unused
tag bits, except that DELS has T2 equal to T0. -/

/-- The five header fields (R111). -/
def header (o : BitOrder) (opc : BitVec 5) (t2 t1 t0 q : Bool) : Slot :=
  place o 0 opc ||| placeBit o 5 t2 ||| placeBit o 6 t1 ||| placeBit o 7 t0 ||| placeBit o 8 q

/-- Format F-S (R113); `t2` is the unused tag bit T2. -/
def encodeS (o : BitOrder) (opc : BitVec 5) (q t2 : Bool) (str : Operand StrNo) : Slot :=
  header o opc t2 true str.tag q ||| place o 13 (str.fieldOr 0)

/-- Format F-SK (R113). -/
def encodeSK (o : BitOrder) (opc : BitVec 5) (q : Bool) (str : Operand StrNo) (key : Operand Key) : Slot :=
  header o opc true key.tag str.tag q ||| place o 13 (str.fieldOr 0) ||| place o 16 (key.fieldOr 0)

/-- Format F-SKV (R113). -/
def encodeSKV (o : BitOrder) (opc : BitVec 5) (q : Bool) (str : Operand StrNo) (key : Operand Key)
    (value : Operand Value) : Slot :=
  header o opc value.tag key.tag str.tag q ||| place o 13 (str.fieldOr 0) |||
    place o 16 (key.fieldOr 0) ||| place o 80 (value.fieldOr 0)

/-- Format F-RAB (R113). -/
def encodeRAB (o : BitOrder) (opc : BitVec 5) (q : Bool) (r a b : Operand StrNo) : Slot :=
  header o opc b.tag a.tag r.tag q ||| place o 13 (r.fieldOr 0) ||| place o 21 (a.fieldOr 0) |||
    place o 29 (b.fieldOr 0)

/-- Format F-RAK (R113). -/
def encodeRAK (o : BitOrder) (opc : BitVec 5) (q : Bool) (r a : Operand StrNo) (key : Operand Key) : Slot :=
  header o opc key.tag a.tag r.tag q ||| place o 13 (r.fieldOr 0) ||| place o 21 (a.fieldOr 0) |||
    place o 24 (key.fieldOr 0)

/-- Format F-JT (R113, R215); Q and T2 are unused. -/
def encodeJT (p : Params) (t0 : Bool) (addr : Operand Nat) : Slot :=
  header p.bitOrder p.opcJt true addr.tag t0 false |||
    place p.bitOrder p.jtOff (BitVec.ofNat p.jtAddrBits (addr.fieldOr 0))

/-- The opcode of a command (R116). -/
def Instr.opcode (p : Params) : Instr → BitVec 5
  | .del _ _ _ => 0x01
  | .ins _ _ _ _ => 0x02
  | .min _ _ => 0x03
  | .max _ _ => 0x04
  | .srch _ _ _ => 0x05
  | .sq _ _ => 0x06
  | .cnt _ _ => 0x07
  | .or _ _ _ _ => 0x08
  | .and _ _ _ _ => 0x09
  | .not _ _ _ _ => 0x0A
  | .lseq _ _ _ _ => 0x0B
  | .ls _ _ _ _ => 0x0C
  | .greq _ _ _ _ => 0x0D
  | .gr _ _ _ _ => 0x0E
  | .dels _ _ => 0x0F
  | .next _ _ _ => 0x10
  | .prev _ _ _ => 0x11
  | .nsm _ _ _ => 0x12
  | .ngr _ _ _ => 0x13
  | .jt _ _ => p.opcJt

/-- The slot image of a command (R112, R113, R116). -/
def encode (p : Params) : Instr → Slot
  | .del q str key => encodeSK p.bitOrder 0x01 q str key
  | .ins q str key value => encodeSKV p.bitOrder 0x02 q str key value
  | .min q str => encodeS p.bitOrder 0x03 q true str
  | .max q str => encodeS p.bitOrder 0x04 q true str
  | .srch q str key => encodeSK p.bitOrder 0x05 q str key
  | .sq q str => encodeS p.bitOrder 0x06 q true str
  | .cnt q str => encodeS p.bitOrder 0x07 q true str
  | .or q r a b => encodeRAB p.bitOrder 0x08 q r a b
  | .and q r a b => encodeRAB p.bitOrder 0x09 q r a b
  | .not q r a b => encodeRAB p.bitOrder 0x0A q r a b
  | .lseq q r a key => encodeRAK p.bitOrder 0x0B q r a key
  | .ls q r a key => encodeRAK p.bitOrder 0x0C q r a key
  | .greq q r a key => encodeRAK p.bitOrder 0x0D q r a key
  | .gr q r a key => encodeRAK p.bitOrder 0x0E q r a key
  | .dels q str => encodeS p.bitOrder 0x0F q str.tag str
  | .next q str key => encodeSK p.bitOrder 0x10 q str key
  | .prev q str key => encodeSK p.bitOrder 0x11 q str key
  | .nsm q str key => encodeSK p.bitOrder 0x12 q str key
  | .ngr q str key => encodeSK p.bitOrder 0x13 q str key
  | .jt t0 addr => encodeJT p t0 addr

/-! ### The CPU's command (R121, R232, R233) -/

/-- The fields CMD_REG_LAYOUT takes from the word written to CMD (R121). -/
structure CmdFields where
  opc : BitVec 5
  q : Bool
  s0 : StrNo
  s1 : StrNo
  s2 : StrNo
deriving DecidableEq, Repr

/-- The number whose bits, least significant first, are the listed bits of a word. -/
def gatherBits (w : Reg) : List Nat → Nat
  | [] => 0
  | b :: bs => (w.getLsbD b).toNat + 2 * gatherBits w bs

/-- CMD_REG_LAYOUT applied to a word (R121). -/
def cmdFields (l : CmdLayout) (w : Reg) : CmdFields where
  opc := BitVec.ofNat 5 (gatherBits w l.opc)
  q := gatherBits w l.q != 0
  s0 := BitVec.ofNat 3 (gatherBits w l.s0)
  s1 := BitVec.ofNat 3 (gatherBits w l.s1)
  s2 := BitVec.ofNat 3 (gatherBits w l.s2)

/-- The command a C2S entry asks for, every operand valid (R233); none for an opcode the CPU cannot use:
JT (R218) and the unassigned ones (U2). -/
def cpuCommand (c : CmdFields) (key : Key) (value : Value) : Option Instr :=
  match c.opc.toNat with
  | 0x01 => some (.del c.q (.given c.s0) (.given key))
  | 0x02 => some (.ins c.q (.given c.s0) (.given key) (.given value))
  | 0x03 => some (.min c.q (.given c.s0))
  | 0x04 => some (.max c.q (.given c.s0))
  | 0x05 => some (.srch c.q (.given c.s0) (.given key))
  | 0x06 => some (.sq c.q (.given c.s0))
  | 0x07 => some (.cnt c.q (.given c.s0))
  | 0x08 => some (.or c.q (.given c.s0) (.given c.s1) (.given c.s2))
  | 0x09 => some (.and c.q (.given c.s0) (.given c.s1) (.given c.s2))
  | 0x0A => some (.not c.q (.given c.s0) (.given c.s1) (.given c.s2))
  | 0x0B => some (.lseq c.q (.given c.s0) (.given c.s1) (.given key))
  | 0x0C => some (.ls c.q (.given c.s0) (.given c.s1) (.given key))
  | 0x0D => some (.greq c.q (.given c.s0) (.given c.s1) (.given key))
  | 0x0E => some (.gr c.q (.given c.s0) (.given c.s1) (.given key))
  | 0x0F => some (.dels c.q (.given c.s0))
  | 0x10 => some (.next c.q (.given c.s0) (.given key))
  | 0x11 => some (.prev c.q (.given c.s0) (.given key))
  | 0x12 => some (.nsm c.q (.given c.s0) (.given key))
  | 0x13 => some (.ngr c.q (.given c.s0) (.given key))
  | _ => none

/-! ### The numbering of spec/opcode_table.json

The table writes a command of `nbits` bits as one number, the first field in the most significant bits: its `encoding`
column the bits of the fields only, its `match` column all 144 bits of the slot. Every opcode but #0 makes the second
number longer than `nbits` bits, which tells the two apart. -/

/-- How many bits the table's number `w` stands for: `nbits`, or the whole slot if it has more. -/
def tableBits (nbits w : Nat) : Nat := if w < 2 ^ nbits then nbits else Config.cmdMisdVal

/-- The slot in which the machine stores a command the table numbers `w`: the command's bits in the
parameters' bit order, every other bit 0. -/
def slotOfTableWord (p : Params) (nbits w : Nat) : Slot :=
  match p.bitOrder with
  | .firstFieldHigh => BitVec.ofNat 144 w <<< (Config.cmdMisdVal - tableBits nbits w)
  | .firstFieldLow =>
    let nbits := tableBits nbits w
    let fields := match formatOf p (BitVec.ofNat 5 (w >>> (nbits - 5))) with
      | some f => headerFields ++ f.operandFields p
      | none => headerFields
    fields.foldl (init := 0) fun slot (off, width) =>
      if off + width ≤ nbits then
        slot ||| place .firstFieldLow off (BitVec.ofNat width (w >>> (nbits - off - width)))
      else slot

/-- The instruction the decoder reads from a command the table numbers `w`, with the parameters of the
machine right after reset. -/
def decodeTableWord (nbits w : Nat) : Option Instr :=
  (decode Machine.prototypeParams (slotOfTableWord Machine.prototypeParams nbits w)).toOption

end Sys2Proof
end

