-- ==== Sys2Proof/Machine/State.lean ====
section
/-! DEFINITION. The state of the SPU as plain data (spec/10_state.md R20 to R36, R75), the ways a step can
stop, and the machine right after reset. -/

namespace Sys2Proof.Machine

/-- The two command streams (spec/20_memory.md R91). -/
inductive Stream where
  | coprocessor
  | misd
deriving DecidableEq, Repr

/-- The agents that act on the state (R91). -/
inductive Agent where
  | host
  | coprocessor
  | misd
deriving DecidableEq, Repr

/-- Where the MISD stream stands with the datum of one operand (R29, R213). -/
inductive TagCell where
  /-- The stream waits for no datum of this operand. -/
  | idle
  /-- The stream waits for the CPU's write to the operand's tag register. -/
  | awaited
  /-- The datum has arrived. -/
  | received (d : Datum)
deriving DecidableEq, Repr

/-- The MISD wait state (R29): one cell for each of the operands 0, 1, 2. -/
structure TagWait where
  t0 : TagCell
  t1 : TagCell
  t2 : TagCell
deriving DecidableEq, Repr

/-- Not waiting (R75). -/
abbrev TagWait.idle : TagWait := ⟨.idle, .idle, .idle⟩

/-- The last-result record LAST (R30). -/
structure LastResult where
  r : Bool
  v : Bool
  /-- The cause `code` stands for; none before the first completion after a reset (log 17). -/
  cause : Option Cause
  code : BitVec 8
  key : Key
  value : Value
  power : Reg
deriving DecidableEq, Repr

/-- An entry of the result queue S2C (R33, spec/44_coprocessor_mode.md R238). -/
structure ResultEntry where
  v : Bool
  /-- The cause `code` stands for (log 17). -/
  cause : Cause
  code : BitVec 8
  key : Key
  value : Value
deriving DecidableEq, Repr

/-- An entry of the command queue C2S (R32, R232). -/
structure CommandEntry where
  opc : BitVec 5
  q : Bool
  s0 : StrNo
  s1 : StrNo
  s2 : StrNo
  key : Key
  value : Value
deriving DecidableEq, Repr

/-- An access of the host (R15, R84), or one of the abstract actions that stand for the LCM protocol
(R251, R253). -/
inductive HostAccess where
  | read (addr size : Nat)
  | write (addr size : Nat) (v : Reg)
  | loadLcm (a : Nat) (c : Slot)
  | readLcm (a : Nat)
deriving DecidableEq, Repr

/-- What a reading access gives back. -/
inductive HostReply where
  | word (v : Reg)
  | slot (c : Slot)
deriving DecidableEq, Repr

/-- The whole state. -/
structure State where
  /-- present[s] and map[s] for s = 1..7, at index s - 1 (R21). -/
  structs : Vector (Option PairMap) Config.strNum
  /-- IP, in LCM slots (R25, R26); log 29. -/
  ip : Nat
  /-- LCM (R28). -/
  lcm : Memory
  /-- The MISD wait state (R29). -/
  wait : TagWait
  /-- The command the fetch unit has fetched and not yet executed, as its slot image (spec/43_jump.md R211, R212, R214);
  none between two commands. -/
  fetched : Option Slot
  /-- LAST (R30). -/
  last : LastResult
  /-- C2S, oldest first (R32). -/
  c2s : List CommandEntry
  /-- S2C, oldest first (R33). -/
  s2c : List ResultEntry
  /-- PCI2SYS, oldest first: the host's accesses not yet performed (R34; log 5). -/
  pci2sys : List HostAccess
  /-- SYS2PCI, oldest first: the replies the bus has not taken (R34; log 5). -/
  sys2pci : List HostReply
  /-- DR_FLAG (R35). -/
  drFlag : Bool
  /-- OVF_FLAG (R35). -/
  ovfFlag : Bool
  /-- OWR (R35). -/
  owr : Bool
  /-- KEY_W (R36). -/
  keyW : Key
  /-- VALUE_W (R36). -/
  valueW : Value
  /-- TAG_L (R36). -/
  tagL : Reg
  /-- LCMW_ADR (R36). -/
  lcmwAdr : Reg
  /-- LCMR_ADR (R36). -/
  lcmrAdr : Reg
  /-- LSMW_ADR (R36). -/
  lsmwAdr : Reg
  /-- LSMR_ADR (R36). -/
  lsmrAdr : Reg
  /-- LMD_W[0..15] (R36). -/
  lmdW : Vector Reg 16
  /-- CONTROL0 (R41). -/
  control0 : Reg
  /-- TSC (R275). -/
  tsc : BitVec 64
  /-- The queue of data read from LCM or LSM (R56, R252), without a depth (N9); log 13. -/
  dmaRead : List (BitVec 512)
  /-- The hardware reset signal RST (R75, R290). -/
  rst : Bool
  /-- The model's own: the open parameters (log 1); no step changes them. -/
  params : Params
  /-- The model's own: the number of the draw of the current step (log 2). -/
  draws : Nat
  /-- The model's own: which agent moves next, oldest first (log 7). -/
  turns : List Agent
  /-- The model's own: the next answers of ins_space (log 18). -/
  insAnswers : List InsSpace
  /-- The model's own: the next answers of setop_space (log 18). -/
  setopAnswers : List SetopSpace
  /-- The model's own: the stream whose command is executed (log 8). -/
  issuer : Stream
deriving DecidableEq, Repr

/-- Why the machine is stuck. Each is raised by the fetch of the MISD stream and is safe: the spec gives the
fetch no effect (log 9). -/
inductive Fault where
  /-- The fetch finds IP outside LCM (U9). Safe. -/
  | ipOutsideLcm (ip : Nat)
  /-- The fetch finds a slot the host never wrote (U8). Safe. -/
  | slotUnwritten (ip : Nat)
  /-- The fetched slot's OPC is unassigned (U2). Safe. -/
  | unassignedOpcode (opc : BitVec 5)
deriving DecidableEq, Repr

/-- What the model gives no meaning to, by name. All are safe: a claim holds only for runs that do not reach
them. -/
inductive Refusal where
  /-- An instruction without a meaning yet; raised by no arm of `exec` now. Safe. -/
  | notModelled (mnemonic : String)
  /-- A command names structure 0 (U1); raised by every command that names a structure. Safe. -/
  | structureZero
  /-- A CMD word or a C2S entry with an unassigned opcode (U2); raised by the CMD write. Safe. -/
  | unassignedCommand (opc : BitVec 5)
  /-- A tag datum for an operand nobody waits for (U3); raised by the TAGi_H write. Safe. -/
  | tagNotAwaited (i : Nat)
  /-- A window access that is not an aligned 32-bit access inside the window (U4). Safe. -/
  | badWindowAccess (addr size : Nat)
  /-- A write to an offset without a write side (U4). Safe. -/
  | noWriteSide (addr : Nat)
  /-- MIN or MAX on a structure that exists and has no key (U6). Safe. -/
  | emptyStructure
  /-- JT receives a tag datum other than 0 or 1 (U10). Safe. -/
  | jtTagDatum (d : Datum)
  /-- CONTROL0 bit 0 is cleared while a fetched command waits for a tag and the wait is not abandoned by the next
  host access (U11; log 11). Safe. -/
  | misdStoppedWhileWaiting
  /-- CONTROL1 bit 4 with S2C empty (U12). Safe. -/
  | popOfEmptyResultQueue
  /-- CONTROL0 bits 2 and 3 written 1 at once (U14). Safe. -/
  | lcmAndLsmEnabled
  /-- A host write to LSM (U15). Safe. -/
  | lsmWrite
  /-- A command is executed while DDR_BIST = 0 (U16). Safe. -/
  | ddrBistFailed
  /-- LCM is loaded while the MISD mode is enabled, or while a fetched command waits for a tag (R94, U11). Safe. -/
  | lcmLoadWhileMisd
  /-- HostLoadLCM or HostReadLCM at an address outside LCM (R251, R253). Safe. -/
  | lcmAddress (a : Nat)
  /-- HostReadLCM of a slot never written (R253). Safe. -/
  | lcmReadUnwritten (a : Nat)
  /-- A command of the coprocessor stream with an operand that is not valid; R125 and R233 rule it out, and
  no C2S entry gives one. Safe. -/
  | cpuOperandMissing
deriving DecidableEq, Repr

/-- What a step, or the execution of a command, gives. -/
abbrev Result := Host.Outcome State Fault Refusal

/-- The machine right after a hardware reset (R75, R291). The values R75 leaves open are 0: DESIGN CHOICE
(log 3); those it decides are the spec's (D33, log 4). -/
def State.reset : State where
  structs := Vector.replicate Config.strNum none
  ip := 0
  lcm := []
  wait := TagWait.idle
  fetched := none
  last := { r := true, v := false, cause := none, code := 0, key := 0, value := 0, power := 0 }
  c2s := []
  s2c := []
  pci2sys := []
  sys2pci := []
  drFlag := false
  ovfFlag := false
  owr := false
  keyW := 0
  valueW := 0
  tagL := 0
  lcmwAdr := 0
  lcmrAdr := 0
  lsmwAdr := 0
  lsmrAdr := 0
  lmdW := Vector.replicate 16 0
  control0 := 0
  tsc := 0
  dmaRead := []
  rst := false
  params := prototypeParams
  draws := 0
  turns := []
  insAnswers := []
  setopAnswers := []
  issuer := .coprocessor

end Sys2Proof.Machine
end

