-- ==== Sys2Proof/Machine/Flags.lean ====
section
/-! DEFINITION. Every flag: the result flags R, V and the result code (spec/10_state.md R30, R31), the bits of
CONTROL0 (R42 to R49), the flags of STATE0 and STATE1 (R60 to R70) and the two interrupt lines
(spec/60_exceptions.md R266, R268). -/

namespace Sys2Proof.Machine

/-- The completion causes (R261). -/
def allCauses : List Cause :=
  [.ok, .okInserted, .okUpdated, .eNoStruct, .eNoKey, .eNoNeighbour, .eEvicted, .eNoSpace, .eRExists]

/-- ERRCODE, an open injective function (R262, D15): the free choice of codes when it gives different causes
different codes, else the causes' numbers in the list above, so that the choice ranges over every injective function
and nothing else (log 17). -/
def errCode (c : Cause) : Nat :=
  if (allCauses.map Config.errCodeChoice).Nodup then Config.errCodeChoice c else allCauses.idxOf c

/-- The 8-bit result code of a completed command (R122, R238): R is 1. -/
def resultCode (v : Bool) (c : Cause) : BitVec 8 :=
  Config.resultLayout (errCode c) v true

/-! ### CONTROL0 -/

/-- CONTROL0 bit 0: MISD mode and LCM enabled (R42). -/
def State.misdEnabled (s : State) : Bool := s.control0.getLsbD 0

/-- CONTROL0 bit 1: entry into C2S stopped (R43). -/
def State.entryStopped (s : State) : Bool := s.control0.getLsbD 1

/-- CONTROL0 bit 2: LCM behind the LMD registers (R44). -/
def State.lcmDma (s : State) : Bool := s.control0.getLsbD 2

/-- CONTROL0 bit 3: LSM behind the LMD registers (R45). -/
def State.lsmDma (s : State) : Bool := s.control0.getLsbD 3

/-- CONTROL0 bit 4: TSC enabled (R46). -/
def State.tscEnabled (s : State) : Bool := s.control0.getLsbD 4

/-- CONTROL0 bit 5: DATA_READY_INT enabled (R47). -/
def State.dataReadyEnabled (s : State) : Bool := s.control0.getLsbD 5

/-- CONTROL0 bit 6: QUEUE_OVF_INT enabled (R48). -/
def State.queueOvfEnabled (s : State) : Bool := s.control0.getLsbD 6

/-- CONTROL0 bits 31:24: the System Monitor register address (R49). -/
def State.sysmonAddress (s : State) : BitVec 8 := s.control0.extractLsb' 24 8

/-! ### STATE0 -/

/-- READY (R61): no CPU command waits in C2S; none is executing between two steps. -/
def State.ready (s : State) : Bool := s.c2s.isEmpty

/-- ERROR (R62). -/
def State.error (s : State) : Bool := !s.last.v

/-- ERRORQ (R63), of the oldest S2C entry; none when S2C is empty, where it reads ANY. -/
def State.errorQ (s : State) : Option Bool := s.s2c.head?.map fun e => !e.v

/-- CPU2SPU_FULL (R66). -/
def State.c2sFull (s : State) : Bool := s.params.c2sDepth ≤ s.c2s.length

/-- SYSMON_DATA (R67, R277): the data of the monitor register `State.sysmonAddress` names, a draw. -/
def State.sysmonData (s : State) : BitVec 16 := Config.anySysmon s.draws

/-- The word with bits `b0` to `b7`, bits 8 to 31 from `rest`. -/
def withLowByte (rest : Reg) (b0 b1 b2 b3 b4 b5 b6 b7 : Bool) : Reg :=
  rest.extractLsb' 8 24 ++ (BitVec.ofBool b7 ++ BitVec.ofBool b6 ++ BitVec.ofBool b5 ++ BitVec.ofBool b4 ++
    BitVec.ofBool b3 ++ BitVec.ofBool b2 ++ BitVec.ofBool b1 ++ BitVec.ofBool b0 : BitVec 8)

/-- STATE0 (R60 to R67); the bits no rule gives are those of `any`. -/
def State.state0 (s : State) (any : Reg) : Reg :=
  withLowByte (s.sysmonData ++ any.extractLsb' 0 16 : Reg)
    s.ready s.error (s.errorQ.getD (any.getLsbD 2)) s.owr s.params.ddrBist s.c2sFull
    (any.getLsbD 6) (any.getLsbD 7)

/-! ### STATE1 -/

/-- PCI2SYS_EMPTY (R70). -/
def State.pci2sysEmpty (s : State) : Bool := s.pci2sys.isEmpty

/-- PCI2SYS_FULL (R70). -/
def State.pci2sysFull (s : State) : Bool := s.params.pci2sysDepth ≤ s.pci2sys.length

/-- SPU2CPU_EMPTY (R70). -/
def State.s2cEmpty (s : State) : Bool := s.s2c.isEmpty

/-- SPU2CPU_FULL (R70). -/
def State.s2cFull (s : State) : Bool := s.params.s2cDepth ≤ s.s2c.length

/-- SYS2PCI_EMPTY (R70). -/
def State.sys2pciEmpty (s : State) : Bool := s.sys2pci.isEmpty

/-- SYS2SPU_EMPTY (R70). -/
def State.c2sEmpty (s : State) : Bool := s.c2s.isEmpty

/-- The line DATA_READY_INT to the host (R266): asserted exactly while DR_FLAG is 1. -/
def State.dataReadyLine (s : State) : Bool := s.drFlag

/-- The line QUEUE_OVF_INT to the host (R268): asserted exactly while OVF_FLAG is 1. -/
def State.queueOvfLine (s : State) : Bool := s.ovfFlag

/-- STATE1 (R70); bits 8 to 31 are those of `any`. -/
def State.state1 (s : State) (any : Reg) : Reg :=
  withLowByte any s.pci2sysEmpty s.pci2sysFull s.s2cEmpty s.s2cFull s.sys2pciEmpty s.c2sEmpty
    s.dataReadyLine s.queueOvfLine

end Sys2Proof.Machine
end

