-- ==== Sys2Proof/Machine/Maps.lean ====
section
/-! DEFINITION. The operations over the finite maps of the structures (spec/00_scope.md R12,
spec/42_setops_slices_squeeze.md R191) and over the local command memory (spec/10_state.md R28), each in its
canonical form. -/

namespace Sys2Proof

/-- The canonical form of a map: keys strictly rising in unsigned order (R12, R21, D8). -/
abbrev PairMap.Sorted (m : PairMap) : Prop := m.Pairwise fun p q => p.1 < q.1

/-- M(k), or none when k is not a key of M (R12). -/
def PairMap.get (m : PairMap) (k : Key) : Option Value :=
  (m.find? fun p => p.1 == k).map (·.2)

/-- k in M (R12). -/
def PairMap.has (m : PairMap) (k : Key) : Bool := (m.get k).isSome

/-- M[k := v] (R12). -/
def PairMap.put (k : Key) (v : Value) : PairMap → PairMap
  | [] => [(k, v)]
  | p :: m => if k < p.1 then (k, v) :: p :: m else if p.1 = k then (k, v) :: m else p :: PairMap.put k v m

/-- M - k (R12). -/
def PairMap.erase (m : PairMap) (k : Key) : PairMap := m.filter fun p => p.1 != k

/-- The pair with the least key (R12). -/
def PairMap.least (m : PairMap) : Option (Key × Value) := m.head?

/-- The pair with the greatest key (R12). -/
def PairMap.greatest (m : PairMap) : Option (Key × Value) := m.getLast?

/-- The pair at succ(M, k), the least key strictly greater than k (R12). -/
def PairMap.above (m : PairMap) (k : Key) : Option (Key × Value) := m.find? fun p => k < p.1

/-- The pair at pred(M, k), the greatest key strictly less than k (R12). -/
def PairMap.below (m : PairMap) (k : Key) : Option (Key × Value) := (m.filter fun p => p.1 < k).getLast?

/-- The pairs whose key satisfies a slice predicate (R199). -/
def PairMap.slice (m : PairMap) (sel : Key → Bool) : PairMap := m.filter fun p => sel p.1

/-- UNION (R191); `keepsA` says for a key of both sources whether A's value is kept. -/
def PairMap.union (keepsA : Key → Bool) (ma mb : PairMap) : PairMap :=
  mb.foldl (init := ma) fun m p =>
    if ma.has p.1 && keepsA p.1 then m else m.put p.1 p.2

/-- INTER (R191), with the same choice of values. -/
def PairMap.inter (keepsA : Key → Bool) (ma mb : PairMap) : PairMap :=
  ma.filterMap fun p => (mb.get p.1).map fun w => (p.1, if keepsA p.1 then p.2 else w)

/-- DIFF (R191, D12): the keys of A not in B, with A's values. -/
def PairMap.diff (ma mb : PairMap) : PairMap := ma.filter fun p => !mb.has p.1

/-- The map that holds the given pairs, a later one replacing an earlier one, cut to STR_VAL keys (R23). -/
def PairMap.ofPairs (l : List (Key × Value)) : PairMap :=
  (l.foldl (init := []) fun m p => PairMap.put p.1 p.2 m).take Config.strVal

/-- The canonical form of the local command memory: addresses strictly rising. An unlisted slot has no
value, so no entry can equal what an unlisted slot reads as. -/
abbrev Memory.wf (m : Memory) : Prop := m.Pairwise fun p q => p.1 < q.1

/-- The slot at an address; none when it was never written (R28). -/
def Memory.read (m : Memory) (a : Nat) : Option Slot :=
  (m.find? fun p => p.1 == a).map (·.2)

/-- The memory after a slot is written (R251). -/
def Memory.write (a : Nat) (c : Slot) : Memory → Memory
  | [] => [(a, c)]
  | p :: m => if a < p.1 then (a, c) :: p :: m else if p.1 = a then (a, c) :: m else p :: Memory.write a c m

end Sys2Proof
end

