-- ==== Sys2Proof/Machine/Ops.lean ====
section
/-! DEFINITION. The named operations the commands share: structures, the advance of IP, result delivery and
the report of an error (the SPU takes no trap: spec/60_exceptions.md R264), the space oracles, the fetch, and
the resets. -/

namespace Sys2Proof.Machine

/-! ### Structures (spec/10_state.md R21) -/

/-- present[n] and map[n] together: none when structure n does not exist, or n is 0. -/
def State.structure? (s : State) (n : StrNo) : Option PairMap :=
  if n = 0#3 then none else (s.structs[n.toNat - 1]?).join

/-- present[n] and map[n] assigned together. -/
def State.setStructure (n : StrNo) (m : Option PairMap) (s : State) : State :=
  if n = 0#3 then s else { s with structs := s.structs.setIfInBounds (n.toNat - 1) m }

/-- Whether structure n exists (R24). -/
def State.present (s : State) (n : StrNo) : Bool := (s.structure? n).isSome

/-- The value at (n, k) of the structure space (spec/20_memory.md R81). -/
def State.lookup (s : State) (n : StrNo) (k : Key) : Option Value :=
  (s.structure? n).bind fun m => m.get k

/-- A map as the content of a structure: with no key the structure exists exactly when EMPTY_EXISTS (R24). -/
def contentOf (p : Params) (m : PairMap) : Option PairMap :=
  if m.isEmpty && !p.emptyExists then none else some m

/-- map[n] becomes `m`, and present[n] follows R24. -/
def State.storeMap (n : StrNo) (m : PairMap) (s : State) : State :=
  s.setStructure n (contentOf s.params m)

/-! ### Result delivery (spec/44_coprocessor_mode.md R238) -/

/-- An entry joins S2C; a full queue loses its oldest entry and OWR becomes 1 (R238, R240). -/
def State.pushResult (e : ResultEntry) (s : State) : State :=
  if s.s2cFull then { s with s2c := s.s2c.tail ++ [e], owr := true }
  else { s with s2c := s.s2c ++ [e] }

/-- The record LAST after a completion (R238). -/
def State.recordLast (v : Bool) (c : Cause) (k : Key) (x : Value) (s : State) : State :=
  { s with last := { s.last with r := true, v := v, cause := some c, code := resultCode v c, key := k, value := x } }

/-- DR_FLAG is set by a completion while its enable is 1 (R266). -/
def State.signalDataReady (s : State) : State :=
  if s.dataReadyEnabled then { s with drFlag := true } else s

/-- `Deliver(Q, V, cause, key, value)` (R238); a field that is not given is ANY(64). -/
def State.deliver (q v : Bool) (c : Cause) (key : Option Key) (value : Option Value) (s : State) : State :=
  let k := key.getD (Config.anyKey s.draws)
  let x := value.getD (Config.anyValue s.draws)
  let s := s.recordLast v c k x
  let s := if q then s.pushResult { v := v, cause := c, code := resultCode v c, key := k, value := x } else s
  s.signalDataReady

/-- `raise Error(cause)` (spec/00_scope.md R13): the report of a failed command, which is no trap (R264). -/
def State.raiseError (q : Bool) (c : Cause) (s : State) : State :=
  s.deliver q false c none none

/-! ### The end of a command (R26) -/

/-- IP moves to the next slot when the command was fetched from LCM (R26). -/
def State.advance (s : State) : State :=
  match s.issuer with
  | .misd => { s with ip := s.ip + 1 }
  | .coprocessor => s

/-- A command is finished: the normal advance. -/
def State.finish (s : State) : Result := .next s.advance

/-! ### The space oracles (spec/92_eei_decisions.md D16) -/

/-- The answer of ins_space for a map that would get a new key: never `ok` for a full one (R153). -/
def State.insAnswer (s : State) (m : PairMap) : InsSpace :=
  let a := s.insAnswers.headD (Config.insSpace s.draws)
  if Config.strVal ≤ m.length ∧ a = .ok then .fail else a

/-- ins_space has answered. -/
def State.popInsAnswer (s : State) : State := { s with insAnswers := s.insAnswers.tail }

/-- The answer of setop_space for a result of `n` keys: `fail` for more than STR_VAL (R192). -/
def State.setopAnswer (s : State) (n : Nat) : SetopSpace :=
  if Config.strVal < n then .fail else s.setopAnswers.headD (Config.setopSpace s.draws)

/-- setop_space has answered. -/
def State.popSetopAnswer (s : State) : State := { s with setopAnswers := s.setopAnswers.tail }

/-- Structure n after E_NO_SPACE of a set operation or slice: any valid content (U7). -/
def State.redraw (n : StrNo) (s : State) : State :=
  s.setStructure n ((Config.anyStructure s.draws).bind fun l => contentOf s.params (PairMap.ofPairs l))

/-! ### Fetch (spec/43_jump.md R212) -/

/-- The image of the command to execute: the one fetched before, else the slot IP names (R212); U9 and U8 stop the
fetch (log 9). -/
def State.fetchSlot (s : State) : Except Fault Slot :=
  match s.fetched with
  | some c => .ok c
  | none =>
    if s.ip < s.params.lcmSlots then
      match s.lcm.read s.ip with
      | some c => .ok c
      | none => .error (.slotUnwritten s.ip)
    else .error (.ipOutsideLcm s.ip)

/-- The command to execute with its image (R212); an unassigned opcode, U2, stops the fetch (log 9). -/
def State.fetch (s : State) : Except Fault (Slot × Instr) :=
  match s.fetchSlot with
  | .error f => .error f
  | .ok c =>
    match decode s.params c with
    | .error (.unassignedOpcode opc) => .error (.unassignedOpcode opc)
    | .ok i => .ok (c, i)

/-! ### TSC (spec/60_exceptions.md R275) -/

/-- TSC after some clock ticks: while enabled any value not below the old one (D36; log 16). -/
def State.tick (s : State) : State :=
  if s.tscEnabled then
    { s with tsc := s.tsc + BitVec.ofNat 64 (Config.tscGrowth s.draws % (2 ^ 64 - s.tsc.toNat)) }
  else s

/-! ### Resets (spec/70_reset_and_hazards.md R290, R291) -/

/-- LAST after a reset: R is 1, the rest ANY (R75). -/
def lastAfterReset (draws : Nat) : LastResult where
  r := true
  v := Config.anyV draws
  cause := none
  code := Config.anyCode draws
  key := Config.anyKey draws
  value := Config.anyValue draws
  power := Config.anyPower draws

/-- CONTROL1 bit 0, the software reset (R51, R76): CONTROL0, LCM, TSC and the host-written operand registers
keep their values, and so does the local-memory read queue, which only bit 5 touches (R50; log 13). A fetched command
is dropped, also one whose data have all come (DESIGN CHOICE, log 37). -/
def State.softwareReset (s : State) : State :=
  { s with
    structs := Vector.replicate Config.strNum none
    ip := 0
    wait := TagWait.idle
    fetched := none
    last := lastAfterReset s.draws
    c2s := []
    s2c := []
    pci2sys := []
    sys2pci := []
    drFlag := false
    ovfFlag := false
    owr := false }

/-- Power-on and RST (R75, R291): as the software reset, with CONTROL0 0, LCM unwritten, and TSC and the
host-written registers ANY. The local-memory read queue, for which R75 gives no value, becomes empty (DESIGN CHOICE,
log 13). -/
def State.hardwareReset (s : State) : State :=
  { s.softwareReset with
    control0 := 0
    lcm := []
    dmaRead := []
    tsc := Config.anyTsc s.draws
    keyW := Config.anyReg s.draws 1 ++ Config.anyReg s.draws 0
    valueW := Config.anyReg s.draws 3 ++ Config.anyReg s.draws 2
    tagL := Config.anyReg s.draws 4
    lcmwAdr := Config.anyReg s.draws 5
    lcmrAdr := Config.anyReg s.draws 6
    lsmwAdr := Config.anyReg s.draws 7
    lsmrAdr := Config.anyReg s.draws 8
    lmdW := Vector.ofFn fun i => Config.anyReg s.draws (16 + i)
    rst := false }

/-! ### Waits and turns (spec/20_memory.md R91) -/

/-- A cell that still waits. -/
def TagCell.isAwaited : TagCell → Bool
  | .awaited => true
  | _ => false

/-- The MISD stream is blocked in WaitTag (R213). -/
def TagWait.blocked (w : TagWait) : Bool := w.t0.isAwaited || w.t1.isAwaited || w.t2.isAwaited

/-- A MISD run is ended (spec/43_jump.md R219, D35): the stream is blocked in WaitTag at command address `final`, the
command a claim names as the program's final wait, C2S is empty, and no command executes, as none does between two
steps. -/
def State.runEnded (final : Nat) (s : State) : Bool :=
  s.wait.blocked && s.ip == final && s.c2s.isEmpty

/-- The agents that can move: the host with an access pending, the coprocessor stream with a command queued
(R233), the MISD stream when enabled and not blocked (R211 to R213). -/
def State.enabledAgents (s : State) : List Agent :=
  (if s.pci2sys.isEmpty then [] else [Agent.host]) ++
  (if s.c2s.isEmpty then [] else [Agent.coprocessor]) ++
  (if s.misdEnabled && !s.wait.blocked then [Agent.misd] else [])

/-- The agent that moves: the one `turns` names if it can, else any that can (R91 point 3; log 7). -/
def State.mover (s : State) : Option Agent :=
  match s.enabledAgents with
  | [] => none
  | [a] => some a
  | a :: as =>
    match s.turns with
    | t :: _ => if t ∈ a :: as then some t else (a :: as)[Config.nextAgent s.draws % (as.length + 1)]?
    | [] => (a :: as)[Config.nextAgent s.draws % (as.length + 1)]?

/-- What every step does first: the clock runs, and the turn and the draw number are used up. -/
def State.beginStep (s : State) : State :=
  { s.tick with draws := s.draws + 1, turns := s.turns.tail }

end Sys2Proof.Machine
end

