-- ==== Sys2Proof/Machine/Operands.lean ====
section
/-! DEFINITION. Operands of a command, for every format (spec/30_encoding.md R114, R120): the value of the
field when the tag is 1, the datum the CPU sends when it is 0, and the wait for that datum
(spec/43_jump.md R212, R213). -/

namespace Sys2Proof.Machine

/-- A structure number in a tag datum: datum[2:0] (R120, D30). -/
def strOfDatum (d : Datum) : StrNo := d.extractLsb' 0 3

/-- A JT address in a tag datum: datum[JT_ADDR_BITS-1:0] (R120, D30). D3 admits a JT_ADDR_BITS above the 64 bits of a
datum, and the spec does not say what the address bits above bit 63 are then; they are 0 here (DESIGN CHOICE, log 38). -/
def addrOfDatum (p : Params) (d : Datum) : Nat := d.toNat % 2 ^ p.jtAddrBits

/-- The operand's value: its field, or the datum received for it; none while it is awaited (R213). -/
def resolve {α : Type} (ofDatum : Datum → α) (o : Operand α) (c : TagCell) : Option α :=
  match o, c with
  | .given v, _ => some v
  | .awaited, .received d => some (ofDatum d)
  | .awaited, _ => none

/-- The cells the command being executed may take data from: the MISD stream's own; a CPU command has no tags
(R110). -/
def State.cells (s : State) : TagWait :=
  match s.issuer with
  | .misd => s.wait
  | .coprocessor => TagWait.idle

/-- A cell when the command waits: an operand with tag 0 keeps a datum that has come, else awaits one. -/
def TagCell.hold (tag : Bool) (c : TagCell) : TagCell :=
  match tag, c with
  | true, _ => .idle
  | false, .received d => .received d
  | false, _ => .awaited

/-- The command is not ready: the MISD stream keeps it fetched and waits for the operands whose tag is 0 (R29, R213);
for a CPU command it cannot be (R125). -/
def State.waitTags (s : State) (tag0 tag1 tag2 : Bool) : Result :=
  match s.issuer with
  | .misd =>
    .next { s with wait := ⟨s.wait.t0.hold tag0, s.wait.t1.hold tag1, s.wait.t2.hold tag2⟩ }
  | .coprocessor => .refused .cpuOperandMissing

/-- The data are used: the wait of the MISD stream is over and the fetched command executes. A CPU command leaves both
alone (R243). -/
def State.endWait (s : State) : State :=
  match s.issuer with
  | .misd => { s with wait := TagWait.idle, fetched := none }
  | .coprocessor => s

/-- A command is executed only while the external memory is good (U16). -/
def State.whenDdrGood (s : State) (k : Result) : Result :=
  if s.params.ddrBist then k else .refused .ddrBistFailed

/-- A structure number is used: 0 is refused (U1). -/
def requireStr (n : StrNo) (k : Result) : Result :=
  if n = 0#3 then .refused .structureZero else k

/-- Format F-S. -/
def withStr (str : Operand StrNo) (s : State) (k : StrNo → State → Result) : Result :=
  s.whenDdrGood <|
    match resolve strOfDatum str s.cells.t0 with
    | some n => requireStr n <| k n s.endWait
    | none => s.waitTags str.tag true true

/-- Format F-SK. -/
def withStrKey (str : Operand StrNo) (key : Operand Key) (s : State)
    (k : StrNo → Key → State → Result) : Result :=
  s.whenDdrGood <|
    match resolve strOfDatum str s.cells.t0, resolve id key s.cells.t1 with
    | some n, some x => requireStr n <| k n x s.endWait
    | _, _ => s.waitTags str.tag key.tag true

/-- Format F-SKV. -/
def withStrKeyValue (str : Operand StrNo) (key : Operand Key) (value : Operand Value) (s : State)
    (k : StrNo → Key → Value → State → Result) : Result :=
  s.whenDdrGood <|
    match resolve strOfDatum str s.cells.t0, resolve id key s.cells.t1, resolve id value s.cells.t2 with
    | some n, some x, some v => requireStr n <| k n x v s.endWait
    | _, _, _ => s.waitTags str.tag key.tag value.tag

/-- Format F-RAB. -/
def withRAB (r a b : Operand StrNo) (s : State)
    (k : StrNo → StrNo → StrNo → State → Result) : Result :=
  s.whenDdrGood <|
    match resolve strOfDatum r s.cells.t0, resolve strOfDatum a s.cells.t1, resolve strOfDatum b s.cells.t2 with
    | some nr, some na, some nb =>
      requireStr nr <| requireStr na <| requireStr nb <| k nr na nb s.endWait
    | _, _, _ => s.waitTags r.tag a.tag b.tag

/-- Format F-RAK. -/
def withRAK (r a : Operand StrNo) (key : Operand Key) (s : State)
    (k : StrNo → StrNo → Key → State → Result) : Result :=
  s.whenDdrGood <|
    match resolve strOfDatum r s.cells.t0, resolve strOfDatum a s.cells.t1, resolve id key s.cells.t2 with
    | some nr, some na, some x => requireStr nr <| requireStr na <| k nr na x s.endWait
    | _, _, _ => s.waitTags r.tag a.tag key.tag

/-- The branch tag of JT as an operand: tag bit 1 is the value 1, tag bit 0 awaits a datum (R215). -/
def branchTag (t0 : Bool) : Operand Datum := if t0 then .given 1#64 else .awaited

/-- Format F-JT: the branch value and the target (R216). -/
def withJump (t0 : Bool) (addr : Operand Nat) (s : State) (k : Datum → Nat → State → Result) : Result :=
  s.whenDdrGood <|
    match resolve id (branchTag t0) s.cells.t0, resolve (addrOfDatum s.params) addr s.cells.t1 with
    | some d, some a => k d a s.endWait
    | _, _ => s.waitTags t0 addr.tag true

end Sys2Proof.Machine
end

