-- ==== Sys2Proof/Machine/Jump.lean ====
section
/-! DEFINITION. JT (spec/43_jump.md R215 to R218). -/

namespace Sys2Proof.Machine

/-- JT after operand resolution (R216): 1 jumps, 0 falls through, any other datum is U10. -/
def State.branch (d : Datum) (target : Nat) (s : State) : Result :=
  if d = 1#64 then .next { s with ip := target }
  else if d = 0#64 then .next { s with ip := s.ip + 1 }
  else .refused (.jtTagDatum d)

/-- JT (R216). A JT of the coprocessor stream is discarded: no state changes (R218). -/
def execJt (t0 : Bool) (addr : Operand Nat) (s : State) : Result :=
  match s.issuer with
  | .coprocessor => .next s
  | .misd => withJump t0 addr s fun d target s => s.branch d target

end Sys2Proof.Machine
end

