-- ==== Sys2Proof/Machine/Neighbours.lean ====
section
/-! DEFINITION. MIN, MAX, NEXT, PREV, NSM, NGR and CNT (spec/41_minmax_neighbours_power.md). -/

namespace Sys2Proof.Machine

/-- MIN and MAX after operand resolution (R170, R171); `pick` finds the pair at the end asked for. An
existing structure without a key is U6. -/
def State.extremum (pick : PairMap → Option (Key × Value)) (q : Bool) (n : StrNo) (s : State) : Result :=
  match s.structure? n with
  | none => (s.raiseError q .eNoStruct).finish
  | some m =>
    match pick m with
    | none => .refused .emptyStructure
    | some (k, v) => (s.deliver q true .ok (some k) (some v)).finish

/-- NSM and NGR after operand resolution (R177, R178), and the last part of NEXT and PREV; `pick` finds the
neighbour. -/
def State.neighbour (pick : PairMap → Key → Option (Key × Value)) (q : Bool) (n : StrNo) (k : Key)
    (s : State) : State :=
  match s.structure? n with
  | none => s.raiseError q .eNoStruct
  | some m =>
    match pick m k with
    | none => s.raiseError q .eNoNeighbour
    | some (k', v) => s.deliver q true .ok (some k') (some v)

/-- NEXT and PREV after operand resolution (R175, R176): the base key must be present (R174). -/
def State.neighbourOfKey (pick : PairMap → Key → Option (Key × Value)) (q : Bool) (n : StrNo) (k : Key)
    (s : State) : State :=
  match s.structure? n with
  | none => s.raiseError q .eNoStruct
  | some m => if m.has k then s.neighbour pick q n k else s.raiseError q .eNoKey

/-- LAST.power is written (R184). -/
def State.setPower (n : Nat) (s : State) : State :=
  { s with last := { s.last with power := BitVec.ofNat 32 n } }

/-- CNT after operand resolution (R184). -/
def State.count (q : Bool) (n : StrNo) (s : State) : State :=
  match s.structure? n with
  | none => (s.setPower 0).deliver q false .eNoStruct none (some 0)
  | some m => (s.setPower m.length).deliver q true .ok none (some (BitVec.ofNat 64 m.length))

/-- MIN (R170). -/
def execMin (q : Bool) (str : Operand StrNo) (s : State) : Result :=
  withStr str s fun n s => s.extremum PairMap.least q n

/-- MAX (R171). -/
def execMax (q : Bool) (str : Operand StrNo) (s : State) : Result :=
  withStr str s fun n s => s.extremum PairMap.greatest q n

/-- NEXT (R175). -/
def execNext (q : Bool) (str : Operand StrNo) (key : Operand Key) (s : State) : Result :=
  withStrKey str key s fun n k s => (s.neighbourOfKey PairMap.above q n k).finish

/-- PREV (R176). -/
def execPrev (q : Bool) (str : Operand StrNo) (key : Operand Key) (s : State) : Result :=
  withStrKey str key s fun n k s => (s.neighbourOfKey PairMap.below q n k).finish

/-- NSM (R177). -/
def execNsm (q : Bool) (str : Operand StrNo) (key : Operand Key) (s : State) : Result :=
  withStrKey str key s fun n k s => (s.neighbour PairMap.below q n k).finish

/-- NGR (R178). -/
def execNgr (q : Bool) (str : Operand StrNo) (key : Operand Key) (s : State) : Result :=
  withStrKey str key s fun n k s => (s.neighbour PairMap.above q n k).finish

/-- CNT (R184). -/
def execCnt (q : Bool) (str : Operand StrNo) (s : State) : Result :=
  withStr str s fun n s => (s.count q n).finish

end Sys2Proof.Machine
end

