-- ==== Sys2Proof/Machine/Search.lean ====
section
/-! DEFINITION. SRCH, INS, DEL and DELS (spec/40_search_insert_delete.md). -/

namespace Sys2Proof.Machine

/-- SRCH after operand resolution (R150). -/
def State.search (q : Bool) (n : StrNo) (k : Key) (s : State) : State :=
  match s.structure? n with
  | none => s.raiseError q .eNoStruct
  | some m =>
    match m.get k with
    | none => s.raiseError q .eNoKey
    | some v => s.deliver q true .ok (some k) (some v)

/-- INS into a map with the pair already put in and no space for it: the pair with the greatest key leaves
(R155, D16). -/
def State.insertEvicting (q : Bool) (n : StrNo) (m : PairMap) (s : State) : State :=
  match m.greatest with
  | none => s
  | some (kl, vl) => (s.storeMap n (m.erase kl)).deliver q false .eEvicted (some kl) (some vl)

/-- INS of a key the structure does not hold; `m` is its map, empty when it does not exist (R153, R155,
R156). -/
def State.insertNew (q : Bool) (n : StrNo) (m : PairMap) (k : Key) (v : Value) (s : State) : State :=
  let s' := s.popInsAnswer
  match s.insAnswer m with
  | .ok => (s'.setStructure n (some (m.put k v))).deliver q true .okInserted none none
  | .evict => s'.insertEvicting q n (m.put k v)
  | .fail => s'.raiseError q .eNoSpace

/-- INS after operand resolution (R153). -/
def State.insert (q : Bool) (n : StrNo) (k : Key) (v : Value) (s : State) : State :=
  let m := (s.structure? n).getD []
  if m.has k then (s.setStructure n (some (m.put k v))).deliver q true .okUpdated none none
  else s.insertNew q n m k v

/-- DEL after operand resolution (R157). -/
def State.deleteKey (q : Bool) (n : StrNo) (k : Key) (s : State) : State :=
  match s.structure? n with
  | none => s.raiseError q .eNoStruct
  | some m =>
    match m.get k with
    | none => s.raiseError q .eNoKey
    | some v => (s.storeMap n (m.erase k)).deliver q true .ok (some k) (some v)

/-- DELS after operand resolution (R160). -/
def State.deleteStructure (q : Bool) (n : StrNo) (s : State) : State :=
  match s.structure? n with
  | none => s.raiseError q .eNoStruct
  | some _ => (s.setStructure n none).deliver q true .ok none none

/-- SRCH (R150). -/
def execSrch (q : Bool) (str : Operand StrNo) (key : Operand Key) (s : State) : Result :=
  withStrKey str key s fun n k s => (s.search q n k).finish

/-- INS (R153 to R156). -/
def execIns (q : Bool) (str : Operand StrNo) (key : Operand Key) (value : Operand Value) (s : State) :
    Result :=
  withStrKeyValue str key value s fun n k v s => (s.insert q n k v).finish

/-- DEL (R157). -/
def execDel (q : Bool) (str : Operand StrNo) (key : Operand Key) (s : State) : Result :=
  withStrKey str key s fun n k s => (s.deleteKey q n k).finish

/-- DELS (R160); T0 guards the operand (D6; log 22). -/
def execDels (q : Bool) (str : Operand StrNo) (s : State) : Result :=
  withStr str s fun n s => (s.deleteStructure q n).finish

end Sys2Proof.Machine
end

