-- ==== Sys2Proof/Machine/SetOps.lean ====
section
/-! DEFINITION. AND, OR, NOT, LS, LSEQ, GR, GREQ and SQ (spec/42_setops_slices_squeeze.md). -/

namespace Sys2Proof.Machine

/-- The error of a set operation or slice before any content is computed (R192, R199, R263): `rExists` and
`srcMissing` say which causes apply; of two one is drawn (D43; log 20). -/
def State.buildError (rExists srcMissing : Bool) (s : State) : Option Cause :=
  match rExists, srcMissing with
  | false, false => none
  | true, false => some .eRExists
  | false, true => some .eNoStruct
  | true, true => some (if Config.reportsRExists s.draws then .eRExists else .eNoStruct)

/-- A computed map is stored as the new structure r, or there is no space for it (R192, R199, U7). -/
def State.storeResult (q : Bool) (r : StrNo) (m : PairMap) (s : State) : State :=
  let s' := s.popSetopAnswer
  match s.setopAnswer m.length with
  | .ok => (s'.storeMap r m).deliver q true .ok none none
  | .fail => (s'.redraw r).raiseError q .eNoSpace

/-- AND, OR and NOT after operand resolution, with the set function `f` (R192). -/
def State.combine (f : PairMap → PairMap → PairMap) (q : Bool) (r a b : StrNo) (s : State) : State :=
  match s.buildError (s.present r) (!s.present a || !s.present b) with
  | some c => s.raiseError q c
  | none => s.storeResult q r (f ((s.structure? a).getD []) ((s.structure? b).getD []))

/-- The slices after operand resolution, with the predicate `sel` on keys (R199). -/
def State.sliceInto (sel : Key → Bool) (q : Bool) (r a : StrNo) (s : State) : State :=
  match s.buildError (s.present r) (!s.present a) with
  | some c => s.raiseError q c
  | none => s.storeResult q r (((s.structure? a).getD []).slice sel)

/-- SQ after operand resolution (R207): no map changes; the storage layout is out of scope (R8, log 31). -/
def State.squeeze (q : Bool) (n : StrNo) (s : State) : State :=
  match s.structure? n with
  | none => s.raiseError q .eNoStruct
  | some _ => s.deliver q true .ok none none

/-- UNION of the state's maps, the value of a common key drawn (R191, D13; log 20). -/
def State.unionFn (s : State) : PairMap → PairMap → PairMap := PairMap.union (Config.keepsA s.draws)

/-- INTER of the state's maps, the value of a common key drawn (R191, D13; log 20). -/
def State.interFn (s : State) : PairMap → PairMap → PairMap := PairMap.inter (Config.keepsA s.draws)

/-- The function of AND (R193, R194). -/
def State.andFn (s : State) : PairMap → PairMap → PairMap :=
  match s.params.pairing with
  | .asWritten => s.unionFn
  | .byName => s.interFn

/-- The function of OR (R193, R195). -/
def State.orFn (s : State) : PairMap → PairMap → PairMap :=
  match s.params.pairing with
  | .asWritten => s.interFn
  | .byName => s.unionFn

/-- AND (R194). -/
def execAnd (q : Bool) (r a b : Operand StrNo) (s : State) : Result :=
  withRAB r a b s fun r a b s => (s.combine s.andFn q r a b).finish

/-- OR (R195). -/
def execOr (q : Bool) (r a b : Operand StrNo) (s : State) : Result :=
  withRAB r a b s fun r a b s => (s.combine s.orFn q r a b).finish

/-- NOT (R196). -/
def execNot (q : Bool) (r a b : Operand StrNo) (s : State) : Result :=
  withRAB r a b s fun r a b s => (s.combine PairMap.diff q r a b).finish

/-- LS (R200): keys less than the slice key. -/
def execLs (q : Bool) (r a : Operand StrNo) (key : Operand Key) (s : State) : Result :=
  withRAK r a key s fun r a k s => (s.sliceInto (fun x => x < k) q r a).finish

/-- LSEQ (R201): keys less than or equal to the slice key. -/
def execLseq (q : Bool) (r a : Operand StrNo) (key : Operand Key) (s : State) : Result :=
  withRAK r a key s fun r a k s => (s.sliceInto (fun x => x ≤ k) q r a).finish

/-- GR (R202): keys greater than the slice key. -/
def execGr (q : Bool) (r a : Operand StrNo) (key : Operand Key) (s : State) : Result :=
  withRAK r a key s fun r a k s => (s.sliceInto (fun x => k < x) q r a).finish

/-- GREQ (R203): keys greater than or equal to the slice key. -/
def execGreq (q : Bool) (r a : Operand StrNo) (key : Operand Key) (s : State) : Result :=
  withRAK r a key s fun r a k s => (s.sliceInto (fun x => k ≤ x) q r a).finish

/-- SQ (R207). -/
def execSq (q : Bool) (str : Operand StrNo) (s : State) : Result :=
  withStr str s fun n s => (s.squeeze q n).finish

end Sys2Proof.Machine
end

