-- ==== Sys2Proof/Machine/Dispatch.lean ====
section
/-! DEFINITION. One arm per command. -/

namespace Sys2Proof.Machine

def exec (i : Instr) (s : State) : Host.Outcome State Fault Refusal :=
  match i with
  | .del q str key => Sys2Proof.Machine.execDel q str key s
  | .ins q str key value => Sys2Proof.Machine.execIns q str key value s
  | .min q str => Sys2Proof.Machine.execMin q str s
  | .max q str => Sys2Proof.Machine.execMax q str s
  | .srch q str key => Sys2Proof.Machine.execSrch q str key s
  | .sq q str => Sys2Proof.Machine.execSq q str s
  | .cnt q str => Sys2Proof.Machine.execCnt q str s
  | .or q r a b => Sys2Proof.Machine.execOr q r a b s
  | .and q r a b => Sys2Proof.Machine.execAnd q r a b s
  | .not q r a b => Sys2Proof.Machine.execNot q r a b s
  | .lseq q r a key => Sys2Proof.Machine.execLseq q r a key s
  | .ls q r a key => Sys2Proof.Machine.execLs q r a key s
  | .greq q r a key => Sys2Proof.Machine.execGreq q r a key s
  | .gr q r a key => Sys2Proof.Machine.execGr q r a key s
  | .dels q str => Sys2Proof.Machine.execDels q str s
  | .next q str key => Sys2Proof.Machine.execNext q str key s
  | .prev q str key => Sys2Proof.Machine.execPrev q str key s
  | .nsm q str key => Sys2Proof.Machine.execNsm q str key s
  | .ngr q str key => Sys2Proof.Machine.execNgr q str key s
  | .jt t0 addr => Sys2Proof.Machine.execJt t0 addr s

end Sys2Proof.Machine
end

