-- ==== Sys2Proof/Machine/Window.lean ====
section
/-! DEFINITION. The register window as the host sees it: every register's write side and read side
(spec/10_state.md R38 to R59), the CMD protocol (spec/44_coprocessor_mode.md R231 to R235), tag data (R246) and
the local-memory access (R250 to R254). -/

namespace Sys2Proof.Machine

/-- Bits 31:0 of a 64-bit quantity (R10, R87). -/
def lowHalf (v : BitVec 64) : Reg := v.extractLsb' 0 32

/-- Bits 63:32 of a 64-bit quantity (R10, R87). -/
def highHalf (v : BitVec 64) : Reg := v.extractLsb' 32 32

/-- The bit at which part `i`, counted from the lowest offset, of a quantity of `n` 32-bit parts begins: the one place
where MSB decides the order of the parts in the window (R87). -/
def partBit (n i : Nat) : Nat :=
  match Config.msb with
  | .littleEndian => 32 * i
  | .bigEndian => 32 * (n - 1 - i)

/-- The half of a 64-bit quantity at the lower offset, 0, or the higher, 1 (R87). -/
def halfAt (i : Nat) (v : BitVec 64) : Reg := v.extractLsb' (partBit 2 i) 32

/-- A 64-bit quantity with the word `w` written to its half at the lower offset, 0, or the higher, 1 (R87). -/
def setHalfAt (i : Nat) (w : Reg) (v : BitVec 64) : BitVec 64 :=
  if partBit 2 i = 0 then highHalf v ++ w else w ++ lowHalf v

/-! ### Read side (R38) -/

/-- LCMDi (R38, R253): part i of the head of the local-memory read queue; ANY when it is empty (log 13). -/
def State.readLcmd (i : Nat) (any : Reg) (s : State) : Reg :=
  match s.dmaRead.head? with
  | some d => d.extractLsb' (partBit 5 i) 32
  | none => any

/-- LMDi on its read side (R38, R250, R252): with LSM access enabled part i of the head of the local-memory read
queue; ANY when the queue is empty or LSM is not behind the LMD registers (log 13). -/
def State.readLmd (i : Nat) (any : Reg) (s : State) : Reg :=
  if s.lsmDma then (s.dmaRead.head?.map fun d => d.extractLsb' (partBit 16 i) 32).getD any else any

/-- What a read of the register at an offset returns (R38); `any` is returned where no rule gives a value: an
offset without a read side (R39), KEYQ and VALUEQ with S2C empty (R241). -/
def State.readWindow (addr : Nat) (any : Reg) (s : State) : Reg :=
  if addr = s.params.state1Offset then s.state1 any else
  match addr with
  | 0x00 => halfAt 0 s.last.key
  | 0x04 => halfAt 1 s.last.key
  | 0x20 => halfAt 0 s.last.value
  | 0x24 => halfAt 1 s.last.value
  | 0x40 => (s.s2c.head?.map fun e => halfAt 0 e.key).getD any
  | 0x44 => (s.s2c.head?.map fun e => halfAt 1 e.key).getD any
  | 0x60 => (s.s2c.head?.map fun e => halfAt 0 e.value).getD any
  | 0x64 => (s.s2c.head?.map fun e => halfAt 1 e.value).getD any
  | 0x80 => s.last.power
  | 0x84 => halfAt 0 s.tsc
  | 0x88 => halfAt 1 s.tsc
  | 0x90 => s.state0 any
  | 0xA0 => s.readLcmd 0 any
  | 0xA4 => s.readLcmd 1 any
  | 0xA8 => s.readLcmd 2 any
  | 0xAC => s.readLcmd 3 any
  | 0xB0 => s.readLcmd 4 any
  | _ => if 0xC0 ≤ addr ∧ addr < 0x100 then s.readLmd ((addr - 0xC0) / 4) any else any

/-! ### CONTROL0 and CONTROL1 -/

/-- A host access that abandons a tag wait: CONTROL1 with bit 6 or bit 0 (R57, R51). -/
def HostAccess.abandonsWait : HostAccess → Bool
  | .write addr size v => addr == 0x48 && size == 4 && (v.getLsbD 6 || v.getLsbD 0)
  | _ => false

/-- Write to CONTROL0 (R41): the whole value is replaced. Both DMA bits set is U14; clearing bit 0 while
a fetched command waits for a tag is U11 unless the host's next access abandons the wait. When its data have all come
the command stays fetched and the stream goes on with it once the bit is 1 again (log 11). -/
def State.writeControl0 (v : Reg) (s : State) : Result :=
  if v.getLsbD 2 && v.getLsbD 3 then .refused .lcmAndLsmEnabled
  else if s.wait.blocked && !v.getLsbD 0 && !(s.pci2sys.head?.any HostAccess.abandonsWait) then
    .refused .misdStoppedWhileWaiting
  else .next { s with control0 := v }

/-- CONTROL1 bit 1 (R52). -/
def State.resetPciQueues (s : State) : State := { s with pci2sys := [], sys2pci := [] }

/-- CONTROL1 bit 2 (R53). -/
def State.resetResultQueue (s : State) : State := { s with s2c := [], owr := false }

/-- CONTROL1 bit 3 (R54). -/
def State.resetTsc (s : State) : State := { s with tsc := 0 }

/-- CONTROL1 bit 4 (R55). -/
def State.popResult (s : State) : State := { s with s2c := s.s2c.tail }

/-- CONTROL1 bit 5 (R56, R252). With the queue empty the rules give no behaviour; here nothing changes (DESIGN CHOICE,
log 13). -/
def State.shiftDmaQueue (s : State) : State := { s with dmaRead := s.dmaRead.tail }

/-- CONTROL1 bit 6 (R57): the wait is abandoned and the waiting command dropped (D18). R57 does not speak of a fetched
command whose data have all come; it is dropped too (DESIGN CHOICE, log 37). -/
def State.resetIp (s : State) : State := { s with ip := 0, wait := TagWait.idle, fetched := none }

/-- CONTROL1 bit 7 (R58). -/
def State.clearDataReady (s : State) : State := { s with drFlag := false }

/-- CONTROL1 bit 8 (R59). -/
def State.clearQueueOvf (s : State) : State := { s with ovfFlag := false }

/-- An action done when its bit is 1 (R50). -/
def doWhen (b : Bool) (f : State → State) (s : State) : State := if b then f s else s

/-- The actions of a CONTROL1 write (R50): bit 0 first; of bits 2 and 4, which touch the same queue, the shift
first (log 12). -/
def State.control1Actions (v : Reg) (s : State) : State :=
  doWhen (v.getLsbD 8) State.clearQueueOvf <|
  doWhen (v.getLsbD 7) State.clearDataReady <|
  doWhen (v.getLsbD 6) State.resetIp <|
  doWhen (v.getLsbD 5) State.shiftDmaQueue <|
  doWhen (v.getLsbD 2) State.resetResultQueue <|
  doWhen (v.getLsbD 4) State.popResult <|
  doWhen (v.getLsbD 3) State.resetTsc <|
  doWhen (v.getLsbD 1) State.resetPciQueues <|
  doWhen (v.getLsbD 0) State.softwareReset s

/-- Write to CONTROL1 (R50). The shift of an empty S2C is U12, unless bit 0, which covers it, is set. -/
def State.writeControl1 (v : Reg) (s : State) : Result :=
  if v.getLsbD 4 && !v.getLsbD 0 && s.s2c.isEmpty then .refused .popOfEmptyResultQueue
  else .next (s.control1Actions v)

/-! ### CMD (R232) -/

/-- The C2S entry of a CMD write: key and value are sampled now (R232, D40). -/
def State.commandEntry (c : CmdFields) (s : State) : CommandEntry where
  opc := c.opc
  q := c.q
  s0 := c.s0
  s1 := c.s1
  s2 := c.s2
  key := s.keyW
  value := s.valueW

/-- The fields of a queued command. -/
def CommandEntry.fields (e : CommandEntry) : CmdFields where
  opc := e.opc
  q := e.q
  s0 := e.s0
  s1 := e.s1
  s2 := e.s2

/-- The command a C2S entry asks for (R233). -/
def CommandEntry.instr (e : CommandEntry) : Option Instr := cpuCommand e.fields e.key e.value

/-- An opcode the CPU may use: one of the 19 assigned ones (R116). -/
def assignedOpcode (opc : BitVec 5) : Bool := 1 ≤ opc.toNat && opc.toNat ≤ 0x13

/-- Write to CMD (R232): JT is discarded (R218), an unassigned opcode is U2, a stopped entry drops the command
(R234), a full queue loses it and sets OVF_FLAG when enabled (R235). -/
def State.writeCmd (w : Reg) (s : State) : Result :=
  let c := cmdFields s.params.cmdLayout w
  if assignedOpcode c.opc then
    if s.entryStopped then .next s
    else if s.c2sFull then .next (if s.queueOvfEnabled then { s with ovfFlag := true } else s)
    else .next { s with c2s := s.c2s ++ [s.commandEntry c] }
  else if c.opc = s.params.opcJt then .next s
  else .refused (.unassignedCommand c.opc)

/-! ### Tag data (R246) -/

/-- The datum a write of `v` to TAGi_H sends (R246). -/
def State.tagDatum (v : Reg) (s : State) : Datum := v ++ s.tagL

/-- Write to TAG0_H (R246); U3 when the stream does not wait for operand 0. -/
def State.writeTag0 (v : Reg) (s : State) : Result :=
  if s.wait.t0.isAwaited then .next { s with wait := { s.wait with t0 := .received (s.tagDatum v) } }
  else .refused (.tagNotAwaited 0)

/-- Write to TAG1_H (R246); U3 when the stream does not wait for operand 1. -/
def State.writeTag1 (v : Reg) (s : State) : Result :=
  if s.wait.t1.isAwaited then .next { s with wait := { s.wait with t1 := .received (s.tagDatum v) } }
  else .refused (.tagNotAwaited 1)

/-- Write to TAG2_H (R246); U3 when the stream does not wait for operand 2. -/
def State.writeTag2 (v : Reg) (s : State) : Result :=
  if s.wait.t2.isAwaited then .next { s with wait := { s.wait with t2 := .received (s.tagDatum v) } }
  else .refused (.tagNotAwaited 2)

/-! ### Local-memory registers (R250 to R254) -/

/-- A read of LCM or LSM puts data into the read queue; what and how much no source says (R252; log 13).
The depth of the queue is not given (N9): it has none here and never overflows (DESIGN CHOICE, log 13). -/
def State.fillDmaQueue (s : State) : State := { s with dmaRead := s.dmaRead ++ Config.dmaData s.draws }

/-- Write to LCMR_ADR (R38, R252). -/
def State.writeLcmrAdr (v : Reg) (s : State) : State :=
  let s := { s with lcmrAdr := v }
  if s.lcmDma then s.fillDmaQueue else s

/-- Write to LSMR_ADR (R38, R252). -/
def State.writeLsmrAdr (v : Reg) (s : State) : State :=
  let s := { s with lsmrAdr := v }
  if s.lsmDma then s.fillDmaQueue else s

/-- Write to LSMW_ADR (R38); with LSM access enabled it is part of a host write to LSM, U15. -/
def State.writeLsmwAdr (v : Reg) (s : State) : Result :=
  if s.lsmDma then .refused .lsmWrite else .next { s with lsmwAdr := v }

/-- Write to LMDi (R38, R250); with LSM access enabled it is part of a host write to LSM, U15. -/
def State.writeLmd (i : Nat) (v : Reg) (s : State) : Result :=
  if s.lsmDma then .refused .lsmWrite else .next { s with lmdW := s.lmdW.setIfInBounds i v }

/-! ### Write side (R38) -/

/-- The write side of the register at an offset (R38); an offset without one is U4 (R39). -/
def State.writeWindow (addr : Nat) (v : Reg) (s : State) : Result :=
  match addr with
  | 0x00 => .next { s with keyW := setHalfAt 0 v s.keyW }
  | 0x04 => .next { s with keyW := setHalfAt 1 v s.keyW }
  | 0x20 => .next { s with valueW := setHalfAt 0 v s.valueW }
  | 0x24 => .next { s with valueW := setHalfAt 1 v s.valueW }
  | 0x40 => s.writeCmd v
  | 0x44 => s.writeControl0 v
  | 0x48 => s.writeControl1 v
  | 0x50 => .next { s with lcmwAdr := v }
  | 0x54 => .next (s.writeLcmrAdr v)
  | 0x58 => s.writeLsmwAdr v
  | 0x5C => .next (s.writeLsmrAdr v)
  | 0x60 => .next { s with tagL := v }
  | 0x80 => s.writeTag0 v
  | 0x84 => s.writeTag1 v
  | 0x88 => s.writeTag2 v
  | _ =>
    if 0xC0 ≤ addr then s.writeLmd ((addr - 0xC0) / 4) v
    else .refused (.noWriteSide addr)

/-! ### Host accesses -/

/-- An aligned 32-bit access inside the window (R84, D26). -/
def admittedAccess (addr size : Nat) : Bool := size == 4 && addr % 4 == 0 && decide (addr < 256)

/-- A reply goes to the bus (R34). -/
def State.reply (r : HostReply) (s : State) : State := { s with sys2pci := s.sys2pci ++ [r] }

/-- HostLoadLCM(a, c) (R251, R94): refused while the MISD mode is on, and while a fetched command waits for a tag
(U11). -/
def State.hostLoadLcm (a : Nat) (c : Slot) (s : State) : Result :=
  if s.misdEnabled || s.wait.blocked then .refused .lcmLoadWhileMisd
  else if a < s.params.lcmSlots then .next { s with lcm := s.lcm.write a c }
  else .refused (.lcmAddress a)

/-- HostReadLCM(a) (R253). -/
def State.hostReadLcm (a : Nat) (s : State) : Result :=
  if a < s.params.lcmSlots then
    match s.lcm.read a with
    | some c => .next (s.reply (.slot c))
    | none => .refused (.lcmReadUnwritten a)
  else .refused (.lcmAddress a)

/-- One access of the host takes effect (R84, R91 point 4). Reads have no other effect than their reply
(R85). -/
def State.hostAccess (a : HostAccess) (s : State) : Result :=
  match a with
  | .read addr size =>
    if admittedAccess addr size then
      .next (s.reply (.word (s.readWindow addr (Config.anyWord s.draws))))
    else .refused (.badWindowAccess addr size)
  | .write addr size v =>
    if admittedAccess addr size then s.writeWindow addr v
    else .refused (.badWindowAccess addr size)
  | .loadLcm a c => s.hostLoadLcm a c
  | .readLcm a => s.hostReadLcm a

/-- The oldest transaction of PCI2SYS is performed (R34). -/
def State.hostStep (s : State) : Result :=
  match s.pci2sys with
  | [] => .next s
  | a :: rest => State.hostAccess a { s with pci2sys := rest }

end Sys2Proof.Machine
end

