-- ==== Sys2Proof/Machine/Step.lean ====
section
/-! DEFINITION. One step: the hardware reset when RST is asserted, else the move of one agent
(spec/20_memory.md R91, spec/43_jump.md R212, spec/44_coprocessor_mode.md R233). -/

namespace Sys2Proof.Machine

/-- One step of the coprocessor stream (R233): the oldest command leaves C2S and is executed; IP is neither
read nor written. -/
def State.coprocessorStep (s : State) : Result :=
  match s.c2s with
  | [] => .next s
  | e :: rest =>
    match e.instr with
    | none => .refused (.unassignedCommand e.opc)
    | some i => exec i { s with c2s := rest, issuer := .coprocessor }

/-- One step of the MISD stream (R212): the command at IP, or the one fetched there before, is executed, or
waits. -/
def State.misdStep (s : State) : Result :=
  match s.fetch with
  | .error f => .fault f
  | .ok (c, i) => exec i { s with issuer := .misd, fetched := some c }

/-- One step of the machine. -/
def step (s : State) : Host.Outcome State Fault Refusal :=
  if s.rst then .next s.beginStep.hardwareReset
  else
    match s.mover with
    | none => .next s.beginStep
    | some .host => s.beginStep.hostStep
    | some .coprocessor => s.beginStep.coprocessorStep
    | some .misd => s.beginStep.misdStep

/-- `s` with the command the table numbers `w` in the slot IP names, the MISD mode enabled, no command fetched, RST not
asserted, and the next turn the MISD stream's, so that the very next step fetches and runs it (log 26). -/
def State.withFetchWord (s : State) (nbits w : Nat) : State :=
  { s with
    lcm := s.lcm.write s.ip (slotOfTableWord s.params nbits w)
    control0 := s.control0 ||| 1
    wait := TagWait.idle
    fetched := none
    rst := false
    turns := .misd :: s.turns }

end Sys2Proof.Machine
end

