-- ==== Sys2Proof/Safety.lean ====
section
/-! DEFINITION. What counts as a safe run and the terms statements use: the invariant of the machine, what a
delivered result is (spec/44_coprocessor_mode.md R238), and what a command leaves unchanged (spec/10_state.md
R22, R26). -/

namespace Sys2Proof.Machine

/-! ### The invariant -/

/-- Every structure is canonical, holds at most STR_VAL keys, and is empty only if empty structures exist
(R21, R23, R24). -/
def State.StructuresOk (s : State) : Prop :=
  ∀ n m, s.structure? n = some m →
    m.Sorted ∧ m.length ≤ Config.strVal ∧ (m = [] → s.params.emptyExists = true)

/-- LCM is in its canonical form and inside its address range (R28). -/
def State.LcmOk (s : State) : Prop :=
  Memory.wf s.lcm ∧ ∀ p ∈ s.lcm, p.1 < s.params.lcmSlots

/-- The queues are within their depths, and C2S holds commands the CPU may give (R32, R33, R232). -/
def State.QueuesOk (s : State) : Prop :=
  s.c2s.length ≤ s.params.c2sDepth ∧ s.s2c.length ≤ s.params.s2cDepth ∧
    ∀ e ∈ s.c2s, assignedOpcode e.opc = true

/-- The value of V that goes with a cause (spec/60_exceptions.md R261). -/
def causeV : Cause → Bool
  | .ok => true
  | .okInserted => true
  | .okUpdated => true
  | .eNoStruct => false
  | .eNoKey => false
  | .eNoNeighbour => false
  | .eEvicted => false
  | .eNoSpace => false
  | .eRExists => false

/-- Every result says what its cause says: V and the code (R238, R261). -/
def State.ResultsOk (s : State) : Prop :=
  s.last.r = true ∧
  (∀ c, s.last.cause = some c → s.last.v = causeV c ∧ s.last.code = resultCode s.last.v c) ∧
  ∀ e ∈ s.s2c, e.v = causeV e.cause ∧ e.code = resultCode e.v e.cause

/-- LCM and LSM are not both behind the LMD registers (U14). -/
def State.DmaOk (s : State) : Prop := ¬(s.lcmDma = true ∧ s.lsmDma = true)

/-- The wait state belongs to a fetched command (R29), which is a command, and while a datum is awaited the mode is
enabled or the host's next access abandons the wait (U11). -/
structure State.WaitOk (s : State) : Prop where
  idle : s.fetched = none ↔ s.wait = TagWait.idle
  command : ∀ c, s.fetched = some c → ∃ i, decode s.params c = .ok i
  enabled : s.wait.blocked = true →
    s.misdEnabled = true ∨ s.pci2sys.head?.any HostAccess.abandonsWait = true

/-- The invariant of the machine. -/
structure State.Inv (s : State) : Prop where
  params : s.params.wf
  structures : s.StructuresOk
  lcm : s.LcmOk
  queues : s.QueuesOk
  results : s.ResultsOk
  dma : s.DmaOk
  wait : s.WaitOk

/-! ### Delivered results (R238, R240, R266) -/

/-- From `s` to `t` a command delivered its result: LAST holds it, with Q = 1 it joined S2C, from which a
full queue lost its oldest entry, and DR_FLAG is set when its enable is 1. -/
structure Delivered (q v : Bool) (c : Cause) (k : Key) (x : Value) (s t : State) : Prop where
  lastR : t.last.r = true
  lastV : t.last.v = v
  lastCause : t.last.cause = some c
  lastCode : t.last.code = resultCode v c
  lastKey : t.last.key = k
  lastValue : t.last.value = x
  queue : t.s2c = if q then
      (if s.params.s2cDepth ≤ s.s2c.length then s.s2c.tail else s.s2c) ++ [⟨v, c, resultCode v c, k, x⟩]
    else s.s2c
  overwritten : t.owr = (s.owr || (q && decide (s.params.s2cDepth ≤ s.s2c.length)))
  interrupt : t.drFlag = (s.drFlag || s.control0.getLsbD 5)

/-! ### Frames -/

/-- The components no command writes. -/
structure Untouched (s t : State) : Prop where
  lcm : t.lcm = s.lcm
  c2s : t.c2s = s.c2s
  pci2sys : t.pci2sys = s.pci2sys
  sys2pci : t.sys2pci = s.sys2pci
  ovfFlag : t.ovfFlag = s.ovfFlag
  keyW : t.keyW = s.keyW
  valueW : t.valueW = s.valueW
  tagL : t.tagL = s.tagL
  lcmwAdr : t.lcmwAdr = s.lcmwAdr
  lcmrAdr : t.lcmrAdr = s.lcmrAdr
  lsmwAdr : t.lsmwAdr = s.lsmwAdr
  lsmrAdr : t.lsmrAdr = s.lsmrAdr
  lmdW : t.lmdW = s.lmdW
  control0 : t.control0 = s.control0
  tsc : t.tsc = s.tsc
  dmaRead : t.dmaRead = s.dmaRead
  rst : t.rst = s.rst
  params : t.params = s.params
  draws : t.draws = s.draws
  turns : t.turns = s.turns
  issuer : t.issuer = s.issuer

/-- The stream of the command goes on (R26, R233): the MISD stream is at the next slot, waits no more and has no
command fetched, the coprocessor stream leaves IP and the fetch unit alone. -/
def Advanced (s t : State) : Prop :=
  match s.issuer with
  | .misd => t.ip = s.ip + 1 ∧ t.wait = TagWait.idle ∧ t.fetched = none
  | .coprocessor => t.ip = s.ip ∧ t.wait = s.wait ∧ t.fetched = s.fetched

/-- Every structure is as before. -/
def SameStructures (s t : State) : Prop := ∀ n, t.structure? n = s.structure? n

/-- Every structure but `n` is as before. -/
def SameStructuresBut (n : StrNo) (s t : State) : Prop := ∀ n', n' ≠ n → t.structure? n' = s.structure? n'

/-- The oracles have the same answers left. -/
def SameOracles (s t : State) : Prop := t.insAnswers = s.insAnswers ∧ t.setopAnswers = s.setopAnswers

/-- What a command that changes no structure leaves unchanged, besides the result it delivers. -/
structure QueryFrame (s t : State) : Prop where
  untouched : Untouched s t
  advanced : Advanced s t
  structures : SameStructures s t
  oracles : SameOracles s t
  power : t.last.power = s.last.power

/-- What a command that may change structure `n` leaves unchanged, besides the result it delivers; the oracles'
answers it may use up. -/
structure UpdateFrame (n : StrNo) (s t : State) : Prop where
  untouched : Untouched s t
  advanced : Advanced s t
  structures : SameStructuresBut n s t
  power : t.last.power = s.last.power

/-! ### Results -/

/-- A command succeeded and returned no key and no value: those fields hold values no rule gives (R238). -/
def Succeeded (q : Bool) (c : Cause) (s t : State) : Prop := ∃ k x, Delivered q true c k x s t

/-- A command failed with the cause `c` (R13, R260): V is 0, and the key and value fields hold values no rule
gives. -/
def Failed (q : Bool) (c : Cause) (s t : State) : Prop := ∃ k x, Delivered q false c k x s t

/-- |map[n]|, 0 when structure n does not exist (R12). -/
def State.size (s : State) (n : StrNo) : Nat := ((s.structure? n).getD []).length

/-- After a result is stored structure n exists exactly when it holds a key or empty structures exist (R24). -/
def ExistsIfHolding (n : StrNo) (t : State) : Prop :=
  t.present n = true ↔ (∃ k x, t.lookup n k = some x) ∨ t.params.emptyExists = true

/-- (k', v) is the pair of structure n at succ(map[n], k) (R12). -/
def IsAbove (s : State) (n : StrNo) (k k' : Key) (v : Value) : Prop :=
  s.lookup n k' = some v ∧ k < k' ∧ ∀ j x, s.lookup n j = some x → k < j → k' ≤ j

/-- succ(map[n], k) is none (R12). -/
def NoneAbove (s : State) (n : StrNo) (k : Key) : Prop := ∀ j x, s.lookup n j = some x → ¬ k < j

/-- (k', v) is the pair of structure n at pred(map[n], k) (R12). -/
def IsBelow (s : State) (n : StrNo) (k k' : Key) (v : Value) : Prop :=
  s.lookup n k' = some v ∧ k' < k ∧ ∀ j x, s.lookup n j = some x → j < k → j ≤ k'

/-- pred(map[n], k) is none (R12). -/
def NoneBelow (s : State) (n : StrNo) (k : Key) : Prop := ∀ j x, s.lookup n j = some x → ¬ j < k

/-- What UNION holds for a key that A maps to `x?` and B to `y?` (R191, D13). -/
def UnionAt (x? y? z? : Option Value) : Prop :=
  match x?, y? with
  | some x, some y => z? = some x ∨ z? = some y
  | some x, none => z? = some x
  | none, y => z? = y

/-- What INTER holds for a key that A maps to `x?` and B to `y?` (R191, D13). -/
def InterAt (x? y? z? : Option Value) : Prop :=
  match x?, y? with
  | some x, some y => z? = some x ∨ z? = some y
  | _, _ => z? = none

/-- What DIFF holds for a key that A maps to `x?` and B to `y?` (R191, D12). -/
def DiffAt (x? y? z? : Option Value) : Prop :=
  match y? with
  | some _ => z? = none
  | none => z? = x?

end Sys2Proof.Machine

namespace Sys2Proof

/-! ### Parts of a command -/

/-- The Q bit; a JT has none (R115). -/
def Instr.q : Instr → Bool
  | .del q _ _ => q
  | .ins q _ _ _ => q
  | .min q _ => q
  | .max q _ => q
  | .srch q _ _ => q
  | .sq q _ => q
  | .cnt q _ => q
  | .or q _ _ _ => q
  | .and q _ _ _ => q
  | .not q _ _ _ => q
  | .lseq q _ _ _ => q
  | .ls q _ _ _ => q
  | .greq q _ _ _ => q
  | .gr q _ _ _ => q
  | .dels q _ => q
  | .next q _ _ => q
  | .prev q _ _ => q
  | .nsm q _ _ => q
  | .ngr q _ _ => q
  | .jt _ _ => false

/-- The tag bits T0, T1, T2 of the operands the command uses; true, which never waits, for the others
(R114). -/
def Instr.tags : Instr → Bool × Bool × Bool
  | .del _ str key => (str.tag, key.tag, true)
  | .ins _ str key value => (str.tag, key.tag, value.tag)
  | .min _ str => (str.tag, true, true)
  | .max _ str => (str.tag, true, true)
  | .srch _ str key => (str.tag, key.tag, true)
  | .sq _ str => (str.tag, true, true)
  | .cnt _ str => (str.tag, true, true)
  | .or _ r a b => (r.tag, a.tag, b.tag)
  | .and _ r a b => (r.tag, a.tag, b.tag)
  | .not _ r a b => (r.tag, a.tag, b.tag)
  | .lseq _ r a key => (r.tag, a.tag, key.tag)
  | .ls _ r a key => (r.tag, a.tag, key.tag)
  | .greq _ r a key => (r.tag, a.tag, key.tag)
  | .gr _ r a key => (r.tag, a.tag, key.tag)
  | .dels _ str => (str.tag, true, true)
  | .next _ str key => (str.tag, key.tag, true)
  | .prev _ str key => (str.tag, key.tag, true)
  | .nsm _ str key => (str.tag, key.tag, true)
  | .ngr _ str key => (str.tag, key.tag, true)
  | .jt t0 addr => (t0, addr.tag, true)

/-- The fields the decoder reads of a slot of a format, offset and width: OPC, the used header bits, and each
operand field whose tag is 1 (R113, R114, R117). -/
def Format.readFields (p : Params) (slot : Slot) (f : Format) : List (Nat × Nat) :=
  let o := p.bitOrder
  let op0 := if bitAt o 7 slot then [(13, 3)] else []
  let op1 := fun field => if bitAt o 6 slot then [field] else []
  let op2 := fun field => if bitAt o 5 slot then [field] else []
  match f with
  | .fS => [(0, 5), (7, 1), (8, 1)] ++ op0
  | .fSK => [(0, 5), (6, 1), (7, 1), (8, 1)] ++ op0 ++ op1 (16, 64)
  | .fSKV => [(0, 5), (5, 1), (6, 1), (7, 1), (8, 1)] ++ op0 ++ op1 (16, 64) ++ op2 (80, 64)
  | .fRAB => [(0, 5), (5, 1), (6, 1), (7, 1), (8, 1)] ++ op0 ++ op1 (21, 3) ++ op2 (29, 3)
  | .fRAK => [(0, 5), (5, 1), (6, 1), (7, 1), (8, 1)] ++ op0 ++ op1 (21, 3) ++ op2 (24, 64)
  | .fJT => [(0, 5), (6, 1), (7, 1)] ++ op1 (p.jtOff, p.jtAddrBits)

/-- An operand with tag bit `tag` is known: the tag is 1 or the datum has come (R213). -/
def known (tag : Bool) (c : Machine.TagCell) : Bool :=
  tag || match c with
    | .received _ => true
    | _ => false

/-- Every operand of the command is known (R213). -/
def Instr.ready (i : Instr) (s : Machine.State) : Bool :=
  known i.tags.1 s.cells.t0 && known i.tags.2.1 s.cells.t1 && known i.tags.2.2 s.cells.t2

/-- The structure numbers a command names, by its fields or by received data (R120, R213). -/
def Instr.structureNumbers (i : Instr) (s : Machine.State) : List (Option StrNo) :=
  let n0 := fun o => Machine.resolve Machine.strOfDatum o s.cells.t0
  let n1 := fun o => Machine.resolve Machine.strOfDatum o s.cells.t1
  let n2 := fun o => Machine.resolve Machine.strOfDatum o s.cells.t2
  match i with
  | .del _ str _ => [n0 str]
  | .ins _ str _ _ => [n0 str]
  | .min _ str => [n0 str]
  | .max _ str => [n0 str]
  | .srch _ str _ => [n0 str]
  | .sq _ str => [n0 str]
  | .cnt _ str => [n0 str]
  | .or _ r a b => [n0 r, n1 a, n2 b]
  | .and _ r a b => [n0 r, n1 a, n2 b]
  | .not _ r a b => [n0 r, n1 a, n2 b]
  | .lseq _ r a _ => [n0 r, n1 a]
  | .ls _ r a _ => [n0 r, n1 a]
  | .greq _ r a _ => [n0 r, n1 a]
  | .gr _ r a _ => [n0 r, n1 a]
  | .dels _ str => [n0 str]
  | .next _ str _ => [n0 str]
  | .prev _ str _ => [n0 str]
  | .nsm _ str _ => [n0 str]
  | .ngr _ str _ => [n0 str]
  | .jt _ _ => []

/-- The structure a command names as its destination (R22): Str of INS, DEL and DELS, R of the set operations
and slices. -/
def Instr.destination : Instr → Option (Operand StrNo)
  | .del _ str _ => some str
  | .ins _ str _ _ => some str
  | .min _ _ => none
  | .max _ _ => none
  | .srch _ _ _ => none
  | .sq _ _ => none
  | .cnt _ _ => none
  | .or _ r _ _ => some r
  | .and _ r _ _ => some r
  | .not _ r _ _ => some r
  | .lseq _ r _ _ => some r
  | .ls _ r _ _ => some r
  | .greq _ r _ _ => some r
  | .gr _ r _ _ => some r
  | .dels _ str => some str
  | .next _ _ _ => none
  | .prev _ _ _ => none
  | .nsm _ _ _ => none
  | .ngr _ _ _ => none
  | .jt _ _ => none

/-- The three set commands. -/
inductive SetOp where
  | and
  | or
  | not
deriving DecidableEq, Repr

/-- The command of a set operation. -/
def SetOp.instr (op : SetOp) (q : Bool) (r a b : Operand StrNo) : Instr :=
  match op with
  | .and => .and q r a b
  | .or => .or q r a b
  | .not => .not q r a b

/-- The commands whose set function is UNION (R193 to R195, D11). -/
def SetOp.unites (op : SetOp) (pairing : SetopPairing) : Bool :=
  match op, pairing with
  | .and, .asWritten => true
  | .or, .byName => true
  | .and, .byName => false
  | .or, .asWritten => false
  | .not, _ => false

/-- The four slice commands. -/
inductive Slice where
  | ls
  | lseq
  | gr
  | greq
deriving DecidableEq, Repr

/-- The command of a slice. -/
def Slice.instr (op : Slice) (q : Bool) (r a : Operand StrNo) (key : Operand Key) : Instr :=
  match op with
  | .ls => .ls q r a key
  | .lseq => .lseq q r a key
  | .gr => .gr q r a key
  | .greq => .greq q r a key

/-- P(x, k) of a slice, on the keys as unsigned integers (R200 to R203, D8). -/
def Slice.selects (op : Slice) (x k : Key) : Bool :=
  match op with
  | .ls => x.toNat < k.toNat
  | .lseq => x.toNat ≤ k.toNat
  | .gr => k.toNat < x.toNat
  | .greq => k.toNat ≤ x.toNat

/-- The command is JT. -/
def Instr.isJump : Instr → Bool
  | .jt _ _ => true
  | .del _ _ _ | .ins _ _ _ _ | .min _ _ | .max _ _ | .srch _ _ _ | .sq _ _ | .cnt _ _ | .or _ _ _ _
  | .and _ _ _ _ | .not _ _ _ _ | .lseq _ _ _ _ | .ls _ _ _ _ | .greq _ _ _ _ | .gr _ _ _ _ | .dels _ _
  | .next _ _ _ | .prev _ _ _ | .nsm _ _ _ | .ngr _ _ _ => false

/-- The structure operand of MIN and MAX, which have no meaning on a structure without a key (U6). -/
def Instr.extremumOf : Instr → Option (Operand StrNo)
  | .min _ str => some str
  | .max _ str => some str
  | .del _ _ _ | .ins _ _ _ _ | .srch _ _ _ | .sq _ _ | .cnt _ _ | .or _ _ _ _ | .and _ _ _ _ | .not _ _ _ _
  | .lseq _ _ _ _ | .ls _ _ _ _ | .greq _ _ _ _ | .gr _ _ _ _ | .dels _ _ | .next _ _ _ | .prev _ _ _
  | .nsm _ _ _ | .ngr _ _ _ | .jt _ _ => none

end Sys2Proof

namespace Sys2Proof.Machine

/-! ### Moves -/

/-- The MISD stream moves next: it can (R212, R213), and it has the turn or no other agent can move. -/
abbrev MisdMoves (s : State) : Prop :=
  s.rst = false ∧ s.misdEnabled = true ∧ s.wait.blocked = false ∧
    (s.turns.head? = some .misd ∨ (s.pci2sys = [] ∧ s.c2s = []))

/-- The coprocessor stream moves next: C2S is not empty (R233), and it has the turn or no other agent can
move. -/
abbrev CoprocessorMoves (s : State) : Prop :=
  s.rst = false ∧ s.c2s ≠ [] ∧
    (s.turns.head? = some .coprocessor ∨
      (s.pci2sys = [] ∧ (s.misdEnabled = false ∨ s.wait.blocked = true)))

/-- The host moves next: an access is pending, and it has the turn or no other agent can move. -/
abbrev HostMoves (s : State) : Prop :=
  s.rst = false ∧ s.pci2sys ≠ [] ∧
    (s.turns.head? = some .host ∨ (s.c2s = [] ∧ (s.misdEnabled = false ∨ s.wait.blocked = true)))

/-- The step from `s` performs the host's write of `v` at offset `addr`. -/
abbrev HostWrites (s : State) (addr : Nat) (v : Reg) : Prop :=
  s.rst = false ∧ s.mover = some .host ∧ s.pci2sys.head? = some (.write addr 4 v)

/-! ### Ready commands -/

/-- A command that names one structure can execute: the external memory is good, its structure operand has
the value `n`, a valid number (R5, R213, U16). -/
abbrev StrIs (s : State) (str : Operand StrNo) (n : StrNo) : Prop :=
  s.params.ddrBist = true ∧ resolve strOfDatum str s.cells.t0 = some n ∧ n ≠ 0#3

/-- So can a command that names a structure and a key (R213). -/
abbrev StrKeyIs (s : State) (str : Operand StrNo) (key : Operand Key) (n : StrNo) (k : Key) : Prop :=
  StrIs s str n ∧ resolve id key s.cells.t1 = some k

/-- So can INS (R213). -/
abbrev StrKeyValueIs (s : State) (str : Operand StrNo) (key : Operand Key) (value : Operand Value)
    (n : StrNo) (k : Key) (v : Value) : Prop :=
  StrKeyIs s str key n k ∧ resolve id value s.cells.t2 = some v

/-- So can AND, OR and NOT (R213). -/
abbrev RABIs (s : State) (r a b : Operand StrNo) (nr na nb : StrNo) : Prop :=
  StrIs s r nr ∧ (resolve strOfDatum a s.cells.t1 = some na ∧ na ≠ 0#3) ∧
    (resolve strOfDatum b s.cells.t2 = some nb ∧ nb ≠ 0#3)

/-- So can the slices (R213). -/
abbrev RAKIs (s : State) (r a : Operand StrNo) (key : Operand Key) (nr na : StrNo) (k : Key) : Prop :=
  StrIs s r nr ∧ (resolve strOfDatum a s.cells.t1 = some na ∧ na ≠ 0#3) ∧ resolve id key s.cells.t2 = some k

end Sys2Proof.Machine
end

