-- ==== Sys2Proof/Certificates/Slice0/Obligations.lean ====
section
/-! DEFINITION. The statements for the provers. Each names the rule of spec/ it formalises; where it rests on a
decision of the spec or of the model, the docstring names the decision or the log entry. -/

open Sys2Proof Sys2Proof.Machine

/-! ### Encoding -/

/-- Decoding an encoded well-formed command gives the command, for every admissible value of the open encoding
parameters and every operand (R112 to R118; D1 to D7). -/
def Obligations.DecodeInvertsEncode : Prop :=
  ∀ (p : Params) (i : Instr), p.wf → i.wellFormed p = true → decode p (encode p i) = .ok i

/-- The decoder refuses exactly the slots whose OPC is neither assigned nor OPC_JT, by name (R116, R119; D19). -/
def Obligations.DecodeRefusesUnassignedOpcodes : Prop :=
  ∀ (p : Params) (slot : Slot),
    (if assignedOpcode (field p.bitOrder 0 5 slot) = true ∨ field p.bitOrder 0 5 slot = p.opcJt then
      ∃ i, decode p slot = .ok i
    else decode p slot = .error (.unassignedOpcode (field p.bitOrder 0 5 slot)))

/-- Bits outside the fields the format uses, unused tag bits and the fields whose tag is 0 do not change what a
slot decodes to (R114, R117; D7). -/
def Obligations.DecodeIgnoresUnusedBits : Prop :=
  ∀ (p : Params) (slot slot' : Slot) (f : Format), formatOf p (field p.bitOrder 0 5 slot) = some f →
    (∀ w ∈ f.readFields p slot, field p.bitOrder w.1 w.2 slot' = field p.bitOrder w.1 w.2 slot) →
    decode p slot' = decode p slot

/-- Slot images of spec/95_test_vectors.md, one of each format but JT in each bit order, and the corner cases
E30 and E35, decode to the commands written beside them. -/
def Obligations.SpecImagesDecode : Prop :=
  let high : Params := { prototypeParams with bitOrder := .firstFieldHigh }
  let low : Params := { prototypeParams with bitOrder := .firstFieldLow }
  decode high 0x278300000000000000000000000000000000#144 = .ok (.max true (.given 3#3)) ∧
  decode low 0x0000000000000000000000000000000061e4#144 = .ok (.max true (.given 3#3)) ∧
  decode high 0x2d0100000000000000000000000000000000#144 = .ok (.srch false (.given 1#3) .awaited) ∧
  decode low 0x0000000000000000000000000000000020a5#144 = .ok (.srch false (.given 1#3) .awaited) ∧
  decode high 0x17820123456789abcdeffedcba9876543210#144 =
    .ok (.ins true (.given 2#3) (.given 0x0123456789abcdef#64) (.given 0xfedcba9876543210#64)) ∧
  decode low 0xfedcba98765432100123456789abcdef41e2#144 =
    .ok (.ins true (.given 2#3) (.given 0x0123456789abcdef#64) (.given 0xfedcba9876543210#64)) ∧
  decode high 0x578401020000000000000000000000000000#144 = .ok (.not true (.given 4#3) (.given 1#3) (.given 2#3)) ∧
  decode low 0x0000000000000000000000000000402081ea#144 = .ok (.not true (.given 4#3) (.given 1#3) (.given 2#3)) ∧
  decode high 0x5f8302000000000000000100000000000000#144 = .ok (.lseq true (.given 3#3) (.given 2#3) (.given 1#64)) ∧
  decode low 0x000000000000000000000000014061eb#144 = .ok (.lseq true (.given 3#3) (.given 2#3) (.given 1#64)) ∧
  decode high 0x2783ffffffffffffffffffffffffffffffff#144 = .ok (.max true (.given 3#3)) ∧
  decode high 0x268300000000000000000000000000000000#144 = .ok (.max true .awaited)

/-! ### The step -/

/-- When the MISD stream moves, the step executes the command decoded from the slot IP names, or the command fetched
there before, whose data have come, in the state in which it is fetched, the clock has run and the draw number and the
turn are used (R212, R213; log 2, log 7, log 8, log 10). -/
def Obligations.StepRunsDecodedCommand : Prop :=
  ∀ (s : State) (c : Slot) (i : Instr), MisdMoves s →
    (s.fetched = some c ∨ (s.fetched = none ∧ s.ip < s.params.lcmSlots ∧ s.lcm.read s.ip = some c)) →
    decode s.params c = .ok i →
    step s = exec i { s.tick with
      draws := s.draws + 1, turns := s.turns.tail, issuer := .misd, fetched := some c }

/-- When the coprocessor stream moves, the oldest command leaves C2S and is executed (R233; log 2, log 7,
log 8). -/
def Obligations.StepRunsQueuedCommand : Prop :=
  ∀ (s : State) (e : CommandEntry) (rest : List CommandEntry) (i : Instr), CoprocessorMoves s →
    s.c2s = e :: rest → e.instr = some i →
    step s = exec i { s.tick with
      draws := s.draws + 1, turns := s.turns.tail, c2s := rest, issuer := .coprocessor }

/-- When the host moves, its oldest pending access is performed (R34, R91 point 4; D17, log 5, log 7). -/
def Obligations.StepPerformsHostAccess : Prop :=
  ∀ (s : State) (a : HostAccess) (rest : List HostAccess), HostMoves s → s.pci2sys = a :: rest →
    step s = State.hostAccess a { s.tick with draws := s.draws + 1, turns := s.turns.tail, pci2sys := rest }

/-- With no access pending, C2S empty and the MISD stream off or waiting, a step only lets the clock run and uses the
draw number and the turn (R211, R213, R292; log 2, log 7, and log 11 for a fetched command whose data have all come
while the stream is off). A MISD run that is ended, blocked at the final wait a claim
names with C2S empty, stays so until the host acts (R219; D35). -/
def Obligations.IdleMachineExecutesNothing : Prop :=
  ∀ s : State, s.rst = false → s.pci2sys = [] →
    (s.c2s = [] → (s.misdEnabled = false ∨ s.wait.blocked = true) →
      step s = .next { s.tick with draws := s.draws + 1, turns := s.turns.tail }) ∧
    ∀ final, s.runEnded final = true →
      s.wait.blocked = true ∧ s.ip = final ∧ s.c2s = [] ∧
      ∃ t, step s = .next t ∧ t.runEnded final = true ∧ ∀ n, t.structure? n = s.structure? n

/-- The fetch of the MISD stream stops the machine, by name, when IP is outside LCM (U9), at a slot never written
(U8) and at an unassigned OPC (U2) (R28, R212; D19, D44, log 9). -/
def Obligations.FetchStopsByName : Prop :=
  ∀ s : State, MisdMoves s → s.fetched = none →
    (s.params.lcmSlots ≤ s.ip → step s = .fault (.ipOutsideLcm s.ip)) ∧
    (s.ip < s.params.lcmSlots → s.lcm.read s.ip = none → step s = .fault (.slotUnwritten s.ip)) ∧
    (∀ c opc, s.ip < s.params.lcmSlots → s.lcm.read s.ip = some c →
      decode s.params c = .error (.unassignedOpcode opc) → step s = .fault (.unassignedOpcode opc))

/-- Every step keeps the invariant of the machine: the structures are ordered, bounded and empty only if empty
structures exist (R21, R23, R24), LCM is canonical and inside its range (R28), the queues are within their depths
(R32, R33), every result says what its cause says (R238, R261), LCM and LSM access are not both enabled (U14), and
the wait belongs to a fetched command, which goes on or is abandoned (R29, U11). It rests on the model's choices in
log 10, log 11 and log 30. -/
def Obligations.StepKeepsInvariant : Prop :=
  ∀ s t : State, s.Inv → step s = .next t → t.Inv

/-- The machine right after reset meets the invariant. -/
def Obligations.ResetMeetsInvariant : Prop := State.reset.Inv

/-- Right after reset CONTROL0 is 0, no structure exists, LCM is unwritten, IP is 0, the stream waits for nothing, the
four queues are empty, the flags are 0, READY reads 1, and a step executes nothing (R75, R291, R292). Of these the manual
states CONTROL0; the rest is the spec's decision D33. The values R75 leaves open are not stated (log 3). -/
def Obligations.ResetLeavesDecidedValues : Prop :=
  State.reset.control0 = 0 ∧ (∀ n, State.reset.present n = false) ∧ (∀ a, State.reset.lcm.read a = none) ∧
  State.reset.ip = 0 ∧ State.reset.wait = TagWait.idle ∧ State.reset.fetched = none ∧ State.reset.c2s = [] ∧ State.reset.s2c = [] ∧
  State.reset.pci2sys = [] ∧ State.reset.sys2pci = [] ∧ State.reset.drFlag = false ∧ State.reset.ovfFlag = false ∧
  State.reset.owr = false ∧ State.reset.last.r = true ∧ State.reset.ready = true ∧
  step State.reset = .next { State.reset with draws := 1 }

/-- While RST is asserted a step gives every component the value R75 decides, whatever the state (R75, R291; D33);
TSC, the host-written registers and the rest of LAST are not stated, R75 leaves them open (log 25). That the local-memory
read queue becomes empty is the model's choice (log 13). -/
def Obligations.HardwareResetClears : Prop :=
  ∀ s : State, s.rst = true → ∃ t, step s = .next t ∧
    t.control0 = 0 ∧ (∀ n, t.present n = false) ∧ (∀ a, t.lcm.read a = none) ∧ t.ip = 0 ∧
    t.wait = TagWait.idle ∧ t.fetched = none ∧ t.c2s = [] ∧ t.s2c = [] ∧ t.pci2sys = [] ∧ t.sys2pci = [] ∧
    t.dmaRead = [] ∧ t.drFlag = false ∧
    t.ovfFlag = false ∧ t.owr = false ∧ t.last.r = true ∧ t.ready = true ∧ t.rst = false ∧ t.params = s.params

/-! ### Every command -/

/-- No command writes LCM, a queue but S2C, a register of the window, CONTROL0, TSC, OVF_FLAG or a parameter, and a
command changes no structure but the one it names as its destination (R20, R22, R36, R94). -/
def Obligations.CommandsWriteOnlyTheirDestination : Prop :=
  ∀ (i : Instr) (s t : State), exec i s = .next t →
    Untouched s t ∧
    ∀ n, (∀ o, i.destination = some o → resolve strOfDatum o s.cells.t0 ≠ some n) →
      t.structure? n = s.structure? n

/-- A command of the coprocessor stream leaves IP and the fetch unit alone; a command of the MISD stream whose operands
are known ends the wait, is fetched no more and, but for JT, leaves IP + 1; one whose operands are not known changes only
the wait (R26, R213, R233; D18, log 10). -/
def Obligations.StreamsAdvance : Prop :=
  ∀ (i : Instr) (s t : State), exec i s = .next t →
    match s.issuer with
    | .coprocessor => t.ip = s.ip ∧ t.wait = s.wait ∧ t.fetched = s.fetched
    | .misd =>
      if i.ready s = true then
        t.wait = TagWait.idle ∧ t.fetched = none ∧ (i.isJump = false → t.ip = s.ip + 1)
      else t = { s with wait := t.wait } ∧ t.wait.blocked = true

/-- A MISD command with an operand whose tag is 0 and whose datum has not come takes a next state in which the stream
waits for exactly these operands and keeps the data received; nothing else changes and the stream cannot move
(R29, R212, R213). -/
def Obligations.UnreadyCommandsWait : Prop :=
  ∀ (i : Instr) (s : State), s.issuer = .misd → s.params.ddrBist = true → i.ready s = false →
    ∃ w, exec i s = .next { s with wait := w } ∧ w.blocked = true ∧
      w.t0 = s.wait.t0.hold i.tags.1 ∧ w.t1 = s.wait.t1.hold i.tags.2.1 ∧ w.t2 = s.wait.t2.hold i.tags.2.2 ∧
      Agent.misd ∉ State.enabledAgents { s with wait := w }

/-- Every command but JT that completes delivers a result: LAST says R = 1, V as its cause says and the cause's code,
S2C gets the entry when Q = 1, DR_FLAG is set when enabled (R238, R240, R266; D21, D24, D28). -/
def Obligations.CompletedCommandsDeliver : Prop :=
  ∀ (i : Instr) (s t : State), i.isJump = false → i.ready s = true → exec i s = .next t →
    ∃ c k x, Delivered i.q (causeV c) c k x s t

/-- A command that fails leaves every structure as it was (R149, R264), but for the two cases the spec excepts:
INS that evicts (R155), and the result structure of a set operation or slice without space (U7). -/
def Obligations.FailedCommandsKeepStructures : Prop :=
  ∀ (i : Instr) (s t : State) (n : StrNo), i.isJump = false → i.ready s = true → exec i s = .next t →
    t.last.v = false → t.last.cause ≠ some .eEvicted →
    (t.last.cause ≠ some .eNoSpace ∨ (∃ q str key value, i = .ins q str key value) ∨
      ∀ o, i.destination = some o → resolve strOfDatum o s.cells.t0 ≠ some n) →
    t.structure? n = s.structure? n

/-- The execution of a command never faults, for an error is no trap (R264; D20), and stops only where the spec
gives no behaviour: structure number 0 (U1), MIN or MAX of a structure that exists and has no key (U6), a JT of LCM whose
branch tag is 0 and whose datum is other than 0 and 1 (U10), a failed memory test (U16); or for want of an operand the
CPU must give (R125, log 34). -/
def Obligations.CommandsNeverTrap : Prop :=
  ∀ (i : Instr) (s : State),
    (∀ f, exec i s ≠ .fault f) ∧
    ∀ r, exec i s = .refused r →
      (r = .structureZero ∧ some 0#3 ∈ i.structureNumbers s) ∨
      (∃ str n, r = .emptyStructure ∧ i.extremumOf = some str ∧ resolve strOfDatum str s.cells.t0 = some n ∧
        s.present n = true ∧ ∀ k, s.lookup n k = none) ∨
      (∃ addr d, r = .jtTagDatum d ∧ i = .jt false addr ∧ s.issuer = .misd ∧ s.wait.t0 = .received d ∧
        d ≠ 0#64 ∧ d ≠ 1#64) ∨
      (r = .ddrBistFailed ∧ s.params.ddrBist = false) ∨
      (r = .cpuOperandMissing ∧ s.issuer = .coprocessor ∧ i.ready s = false)

/-- A command whose operands are known and that names structure 0, in a field or by a datum, is refused by name (R5,
R149; U1, D31). With DDR_BIST = 0 every command is refused by name, but for the JT of the CPU, which is discarded
(R218, R278; U16, log 27). -/
def Obligations.UnusableCommandsAreRefused : Prop :=
  (∀ (i : Instr) (s : State), s.params.ddrBist = true → i.ready s = true → some 0#3 ∈ i.structureNumbers s →
    exec i s = .refused .structureZero) ∧
  ∀ (i : Instr) (s : State), s.params.ddrBist = false → (i.isJump = false ∨ s.issuer = .misd) →
    exec i s = .refused .ddrBistFailed

/-- An operand whose tag is 1 has the value of its field; one whose tag is 0 takes bits 2..0 of the datum as a
structure number, the whole datum as a key or value, its low JT_ADDR_BITS bits as an address (R114, R120; D30);
that the address bits above bit 63 are 0 when JT_ADDR_BITS exceeds 64 is the model's choice (log 38). The
command a C2S entry asks for has the operand values of R233, every operand valid. -/
def Obligations.OperandsAreTakenWhole : Prop :=
  (∀ (n : StrNo) (c : TagCell), resolve strOfDatum (.given n) c = some n) ∧
  (∀ (k : Key) (c : TagCell), resolve id (.given k) c = some k) ∧
  (∀ d : Datum, ∃ n, resolve strOfDatum .awaited (.received d) = some n ∧ n.toNat = d.toNat % 8) ∧
  (∀ d : Datum, resolve id (Operand.awaited (α := Key)) (.received d) = some d) ∧
  (∀ (p : Params) (d : Datum), ∃ a, resolve (addrOfDatum p) .awaited (.received d) = some a ∧
    a = d.toNat % 2 ^ p.jtAddrBits) ∧
  ∀ (q : Bool) (s0 s1 s2 : StrNo) (k : Key) (v : Value),
    let e := fun opc => (CommandEntry.mk opc q s0 s1 s2 k v).instr
    e 0x01 = some (.del q (.given s0) (.given k)) ∧ e 0x02 = some (.ins q (.given s0) (.given k) (.given v)) ∧
    e 0x03 = some (.min q (.given s0)) ∧ e 0x04 = some (.max q (.given s0)) ∧
    e 0x05 = some (.srch q (.given s0) (.given k)) ∧ e 0x06 = some (.sq q (.given s0)) ∧
    e 0x07 = some (.cnt q (.given s0)) ∧ e 0x08 = some (.or q (.given s0) (.given s1) (.given s2)) ∧
    e 0x09 = some (.and q (.given s0) (.given s1) (.given s2)) ∧
    e 0x0A = some (.not q (.given s0) (.given s1) (.given s2)) ∧
    e 0x0B = some (.lseq q (.given s0) (.given s1) (.given k)) ∧
    e 0x0C = some (.ls q (.given s0) (.given s1) (.given k)) ∧
    e 0x0D = some (.greq q (.given s0) (.given s1) (.given k)) ∧
    e 0x0E = some (.gr q (.given s0) (.given s1) (.given k)) ∧ e 0x0F = some (.dels q (.given s0)) ∧
    e 0x10 = some (.next q (.given s0) (.given k)) ∧ e 0x11 = some (.prev q (.given s0) (.given k)) ∧
    e 0x12 = some (.nsm q (.given s0) (.given k)) ∧ e 0x13 = some (.ngr q (.given s0) (.given k))

/-! ### SRCH, INS, DEL, DELS -/

/-- SRCH finds the value of the key, or fails for want of the structure or of the key, and changes no structure
(R150; the names of the two causes are the spec's, D15). -/
def Obligations.SearchFindsKey : Prop :=
  ∀ (s : State) (q : Bool) (str : Operand StrNo) (key : Operand Key) (n : StrNo) (k : Key), StrKeyIs s str key n k →
    ∃ t, exec (.srch q str key) s = .next t ∧ QueryFrame s t ∧
      (s.present n = false → Failed q .eNoStruct s t) ∧
      (s.present n = true → s.lookup n k = none → Failed q .eNoKey s t) ∧
      (∀ v, s.lookup n k = some v → Delivered q true .ok k v s t)

/-- INS of a key the structure holds replaces its value, needs no space and reports OK_UPDATED (R153, R154; D16). -/
def Obligations.InsertUpdatesHeldKey : Prop :=
  ∀ (s : State) (q : Bool) (str : Operand StrNo) (key : Operand Key) (value : Operand Value) (n : StrNo) (k : Key)
    (v old : Value), StrKeyValueIs s str key value n k v → s.lookup n k = some old →
    ∃ t, exec (.ins q str key value) s = .next t ∧ UpdateFrame n s t ∧ SameOracles s t ∧
      Succeeded q .okUpdated s t ∧ t.present n = true ∧
      ∀ j, t.lookup n j = if j = k then some v else s.lookup n j

/-- INS of a key that is not held, with room for it, adds the pair, creates the structure if it does not exist, and
reports OK_INSERTED (R153, R154; D9, D16, log 18). -/
def Obligations.InsertAddsNewKey : Prop :=
  ∀ (s : State) (q : Bool) (str : Operand StrNo) (key : Operand Key) (value : Operand Value) (n : StrNo) (k : Key)
    (v : Value), StrKeyValueIs s str key value n k v → s.lookup n k = none →
    s.insAnswers.headD (Config.insSpace s.draws) = .ok → s.size n < Config.strVal →
    ∃ t, exec (.ins q str key value) s = .next t ∧ UpdateFrame n s t ∧ t.insAnswers = s.insAnswers.tail ∧
      t.setopAnswers = s.setopAnswers ∧ Succeeded q .okInserted s t ∧ t.present n = true ∧
      ∀ j, t.lookup n j = if j = k then some v else s.lookup n j

/-- INS of a key that is not held, when space is made by eviction, leaves the structure with the new pair and
without the pair of the greatest key, which it returns (R155; D16, log 18). -/
def Obligations.InsertEvictsGreatestKey : Prop :=
  ∀ (s : State) (q : Bool) (str : Operand StrNo) (key : Operand Key) (value : Operand Value) (n : StrNo) (k : Key)
    (v : Value), s.StructuresOk → StrKeyValueIs s str key value n k v → s.lookup n k = none →
    s.insAnswers.headD (Config.insSpace s.draws) = .evict →
    ∃ t kl vl, exec (.ins q str key value) s = .next t ∧ UpdateFrame n s t ∧ t.insAnswers = s.insAnswers.tail ∧
      t.setopAnswers = s.setopAnswers ∧ Delivered q false .eEvicted kl vl s t ∧
      (if kl = k then vl = v else s.lookup n kl = some vl) ∧ k ≤ kl ∧
      (∀ j x, s.lookup n j = some x → j ≤ kl) ∧
      (∀ j, t.lookup n j = if j = kl then none else if j = k then some v else s.lookup n j) ∧
      ExistsIfHolding n t

/-- INS of a key that is not held, without space, changes no structure and reports E_NO_SPACE; a structure of STR_VAL
keys never has space (R23, R153, R156; D16, log 18). -/
def Obligations.InsertFailsWithoutSpace : Prop :=
  ∀ (s : State) (q : Bool) (str : Operand StrNo) (key : Operand Key) (value : Operand Value) (n : StrNo) (k : Key)
    (v : Value), StrKeyValueIs s str key value n k v → s.lookup n k = none →
    (s.insAnswers.headD (Config.insSpace s.draws) = .fail ∨
      (Config.strVal ≤ s.size n ∧ s.insAnswers.headD (Config.insSpace s.draws) = .ok)) →
    ∃ t, exec (.ins q str key value) s = .next t ∧ UpdateFrame n s t ∧ SameStructures s t ∧
      t.insAnswers = s.insAnswers.tail ∧ t.setopAnswers = s.setopAnswers ∧ Failed q .eNoSpace s t

/-- DEL removes the key and returns its pair, or fails for want of the structure or of the key; the structure whose
last key leaves exists exactly when empty structures exist (R157; D10). -/
def Obligations.DeleteRemovesKey : Prop :=
  ∀ (s : State) (q : Bool) (str : Operand StrNo) (key : Operand Key) (n : StrNo) (k : Key), StrKeyIs s str key n k →
    ∃ t, exec (.del q str key) s = .next t ∧ UpdateFrame n s t ∧ SameOracles s t ∧
      (s.present n = false → Failed q .eNoStruct s t ∧ SameStructures s t) ∧
      (s.present n = true → s.lookup n k = none → Failed q .eNoKey s t ∧ SameStructures s t) ∧
      (∀ v, s.lookup n k = some v → Delivered q true .ok k v s t ∧
        (∀ j, t.lookup n j = if j = k then none else s.lookup n j) ∧ ExistsIfHolding n t)

/-- DELS deletes the structure, or fails because it does not exist (R160; D6, D21). -/
def Obligations.DeleteStructureRemovesIt : Prop :=
  ∀ (s : State) (q : Bool) (str : Operand StrNo) (n : StrNo), StrIs s str n →
    ∃ t, exec (.dels q str) s = .next t ∧ UpdateFrame n s t ∧ SameOracles s t ∧ t.present n = false ∧
      (s.present n = false → Failed q .eNoStruct s t) ∧ (s.present n = true → Succeeded q .ok s t)

/-! ### MIN, MAX, neighbours, CNT -/

/-- R170 and R171 whole: the encodings of MIN and MAX, their result on a structure that holds a key, their failure on a
missing structure, and their refusal where the rules give no behaviour (U6). -/
def Obligations.MinAndMaxFollowTheirRules : Prop :=
  (∀ (p : Params) (slot : Slot), field p.bitOrder 0 5 slot = 0x03#5 →
    decode p slot = .ok (.min (bitAt p.bitOrder 8 slot)
      (operandOf (bitAt p.bitOrder 7 slot) (field p.bitOrder 13 3 slot)))) ∧
  (∀ (p : Params) (slot : Slot), field p.bitOrder 0 5 slot = 0x04#5 →
    decode p slot = .ok (.max (bitAt p.bitOrder 8 slot)
      (operandOf (bitAt p.bitOrder 7 slot) (field p.bitOrder 13 3 slot)))) ∧
  ∀ (s : State) (q : Bool) (str : Operand StrNo) (n : StrNo), s.StructuresOk → StrIs s str n →
    (s.present n = false →
      (∃ t, exec (.min q str) s = .next t ∧ QueryFrame s t ∧ Failed q .eNoStruct s t) ∧
      ∃ t, exec (.max q str) s = .next t ∧ QueryFrame s t ∧ Failed q .eNoStruct s t) ∧
    (s.present n = true → (∀ k, s.lookup n k = none) →
      exec (.min q str) s = .refused .emptyStructure ∧ exec (.max q str) s = .refused .emptyStructure) ∧
    (∀ k v, s.lookup n k = some v → (∀ j x, s.lookup n j = some x → k.toNat ≤ j.toNat) →
      ∃ t, exec (.min q str) s = .next t ∧ QueryFrame s t ∧ Delivered q true .ok k v s t) ∧
    (∀ k v, s.lookup n k = some v → (∀ j x, s.lookup n j = some x → j.toNat ≤ k.toNat) →
      ∃ t, exec (.max q str) s = .next t ∧ QueryFrame s t ∧ Delivered q true .ok k v s t)

/-- R175 whole: the encoding of NEXT and its four outcomes. -/
def Obligations.NextFollowsItsRule : Prop :=
  (∀ (p : Params) (slot : Slot), field p.bitOrder 0 5 slot = 0x10#5 →
    decode p slot = .ok (.next (bitAt p.bitOrder 8 slot)
      (operandOf (bitAt p.bitOrder 7 slot) (field p.bitOrder 13 3 slot))
      (operandOf (bitAt p.bitOrder 6 slot) (field p.bitOrder 16 64 slot)))) ∧
  ∀ (s : State) (q : Bool) (str : Operand StrNo) (key : Operand Key) (n : StrNo) (k : Key),
    s.StructuresOk → StrKeyIs s str key n k →
    ∃ t, exec (.next q str key) s = .next t ∧ QueryFrame s t ∧
      (s.present n = false → Failed q .eNoStruct s t) ∧
      (s.present n = true → s.lookup n k = none → Failed q .eNoKey s t) ∧
      (∀ x, s.lookup n k = some x → NoneAbove s n k → Failed q .eNoNeighbour s t) ∧
      (∀ x k' v, s.lookup n k = some x → IsAbove s n k k' v → Delivered q true .ok k' v s t)

/-- PREV: its four outcomes (R174, R176; that the least key has no predecessor is the spec's inference). -/
def Obligations.PreviousFollowsItsRule : Prop :=
  ∀ (s : State) (q : Bool) (str : Operand StrNo) (key : Operand Key) (n : StrNo) (k : Key),
    s.StructuresOk → StrKeyIs s str key n k →
    ∃ t, exec (.prev q str key) s = .next t ∧ QueryFrame s t ∧
      (s.present n = false → Failed q .eNoStruct s t) ∧
      (s.present n = true → s.lookup n k = none → Failed q .eNoKey s t) ∧
      (∀ x, s.lookup n k = some x → NoneBelow s n k → Failed q .eNoNeighbour s t) ∧
      (∀ x k' v, s.lookup n k = some x → IsBelow s n k k' v → Delivered q true .ok k' v s t)

/-- R177 and R178 whole: the encodings of NSM and NGR, their three outcomes, the corner cases k = 0 and k = 2^64 - 1,
and that they equal PREV and NEXT when the key is held. -/
def Obligations.NearestKeysFollowTheirRules : Prop :=
  (∀ (p : Params) (slot : Slot), field p.bitOrder 0 5 slot = 0x12#5 →
    decode p slot = .ok (.nsm (bitAt p.bitOrder 8 slot)
      (operandOf (bitAt p.bitOrder 7 slot) (field p.bitOrder 13 3 slot))
      (operandOf (bitAt p.bitOrder 6 slot) (field p.bitOrder 16 64 slot)))) ∧
  (∀ (p : Params) (slot : Slot), field p.bitOrder 0 5 slot = 0x13#5 →
    decode p slot = .ok (.ngr (bitAt p.bitOrder 8 slot)
      (operandOf (bitAt p.bitOrder 7 slot) (field p.bitOrder 13 3 slot))
      (operandOf (bitAt p.bitOrder 6 slot) (field p.bitOrder 16 64 slot)))) ∧
  ∀ (s : State) (q : Bool) (str : Operand StrNo) (key : Operand Key) (n : StrNo) (k : Key),
    s.StructuresOk → StrKeyIs s str key n k →
    (∃ t, exec (.nsm q str key) s = .next t ∧ QueryFrame s t ∧
      (s.present n = false → Failed q .eNoStruct s t) ∧
      (s.present n = true → NoneBelow s n k → Failed q .eNoNeighbour s t) ∧
      (∀ k' v, IsBelow s n k k' v → Delivered q true .ok k' v s t) ∧
      (s.present n = true → k = 0#64 → Failed q .eNoNeighbour s t)) ∧
    (∃ t, exec (.ngr q str key) s = .next t ∧ QueryFrame s t ∧
      (s.present n = false → Failed q .eNoStruct s t) ∧
      (s.present n = true → NoneAbove s n k → Failed q .eNoNeighbour s t) ∧
      (∀ k' v, IsAbove s n k k' v → Delivered q true .ok k' v s t) ∧
      (s.present n = true → k = 0xFFFFFFFFFFFFFFFF#64 → Failed q .eNoNeighbour s t)) ∧
    (∀ x, s.lookup n k = some x → exec (.nsm q str key) s = exec (.prev q str key) s ∧
      exec (.ngr q str key) s = exec (.next q str key) s)

/-- CNT returns the number of keys of the structure in the value field and in POWER; of a missing structure 0, with
V = 0 (R184; D21). The number is that of any list of the keys without repeats. -/
def Obligations.CountReturnsCardinality : Prop :=
  ∀ (s : State) (q : Bool) (str : Operand StrNo) (n : StrNo), s.StructuresOk → StrIs s str n →
    ∃ t, exec (.cnt q str) s = .next t ∧ Untouched s t ∧ Advanced s t ∧ SameStructures s t ∧ SameOracles s t ∧
      (s.present n = false → t.last.power = 0 ∧ ∃ k, Delivered q false .eNoStruct k 0 s t) ∧
      (∀ ks : List Key, s.present n = true → ks.Nodup → (∀ j, j ∈ ks ↔ (s.lookup n j).isSome) →
        ks.length ≤ Config.strVal ∧ t.last.power.toNat = ks.length ∧
        ∃ k x, Delivered q true .ok k x s t ∧ x.toNat = ks.length)

/-! ### Set operations, slices, SQ -/

/-- AND builds the union of A and B as the new structure R when SETOP_PAIRING is as_written, the intersection when it
is by_name; the value of a common key is one of the two (R191, R192, R194; D11, D13, D16, log 18, log 20, log 21). -/
def Obligations.AndBuildsResult : Prop :=
  ∀ (s : State) (q : Bool) (r a b : Operand StrNo) (nr na nb : StrNo), s.StructuresOk → RABIs s r a b nr na nb →
    s.present nr = false → s.present na = true → s.present nb = true →
    s.setopAnswers.headD (Config.setopSpace s.draws) = .ok →
    (s.andFn ((s.structure? na).getD []) ((s.structure? nb).getD [])).length ≤ Config.strVal →
    ∃ t, exec (.and q r a b) s = .next t ∧ UpdateFrame nr s t ∧ t.insAnswers = s.insAnswers ∧
      t.setopAnswers = s.setopAnswers.tail ∧ Succeeded q .ok s t ∧ ExistsIfHolding nr t ∧
      ∀ j, match s.params.pairing with
        | .asWritten => UnionAt (s.lookup na j) (s.lookup nb j) (t.lookup nr j)
        | .byName => InterAt (s.lookup na j) (s.lookup nb j) (t.lookup nr j)

/-- OR builds the intersection of A and B as the new structure R when SETOP_PAIRING is as_written, the union when it
is by_name (R191, R192, R195; D11, D13, D16, log 18, log 20, log 21). -/
def Obligations.OrBuildsResult : Prop :=
  ∀ (s : State) (q : Bool) (r a b : Operand StrNo) (nr na nb : StrNo), s.StructuresOk → RABIs s r a b nr na nb →
    s.present nr = false → s.present na = true → s.present nb = true →
    s.setopAnswers.headD (Config.setopSpace s.draws) = .ok →
    (s.orFn ((s.structure? na).getD []) ((s.structure? nb).getD [])).length ≤ Config.strVal →
    ∃ t, exec (.or q r a b) s = .next t ∧ UpdateFrame nr s t ∧ t.insAnswers = s.insAnswers ∧
      t.setopAnswers = s.setopAnswers.tail ∧ Succeeded q .ok s t ∧ ExistsIfHolding nr t ∧
      ∀ j, match s.params.pairing with
        | .asWritten => InterAt (s.lookup na j) (s.lookup nb j) (t.lookup nr j)
        | .byName => UnionAt (s.lookup na j) (s.lookup nb j) (t.lookup nr j)

/-- NOT builds the difference A minus B, with A's values, as the new structure R (R191, R192, R196; D12, D16,
log 18). -/
def Obligations.NotBuildsDifference : Prop :=
  ∀ (s : State) (q : Bool) (r a b : Operand StrNo) (nr na nb : StrNo), s.StructuresOk → RABIs s r a b nr na nb →
    s.present nr = false → s.present na = true → s.present nb = true →
    s.setopAnswers.headD (Config.setopSpace s.draws) = .ok →
    ∃ t, exec (.not q r a b) s = .next t ∧ UpdateFrame nr s t ∧ t.insAnswers = s.insAnswers ∧
      t.setopAnswers = s.setopAnswers.tail ∧ Succeeded q .ok s t ∧ ExistsIfHolding nr t ∧
      ∀ j, DiffAt (s.lookup na j) (s.lookup nb j) (t.lookup nr j)

/-- AND, OR, NOT and the slices fail, and change no structure, when R exists or a source does not: the cause is one of
those that apply (R192, R199, R263; D43, log 20). -/
def Obligations.BuildCommandsReportErrors : Prop :=
  (∀ (s : State) (op : SetOp) (q : Bool) (r a b : Operand StrNo) (nr na nb : StrNo), RABIs s r a b nr na nb →
    (s.present nr = true ∨ s.present na = false ∨ s.present nb = false) →
    ∃ t, exec (op.instr q r a b) s = .next t ∧ QueryFrame s t ∧
      ((s.present nr = true ∧ Failed q .eRExists s t) ∨
        ((s.present na = false ∨ s.present nb = false) ∧ Failed q .eNoStruct s t))) ∧
  ∀ (s : State) (op : Slice) (q : Bool) (r a : Operand StrNo) (key : Operand Key) (nr na : StrNo) (k : Key),
    RAKIs s r a key nr na k → (s.present nr = true ∨ s.present na = false) →
    ∃ t, exec (op.instr q r a key) s = .next t ∧ QueryFrame s t ∧
      ((s.present nr = true ∧ Failed q .eRExists s t) ∨ (s.present na = false ∧ Failed q .eNoStruct s t))

/-- A slice copies the pairs of A whose key is on its side of the slice key into the new structure R and leaves A as
it is: LS below, LSEQ below or equal, GR above, GREQ above or equal (R199 to R203; D5, D14, D16, log 18). -/
def Obligations.SlicesCopySelectedPairs : Prop :=
  ∀ (s : State) (op : Slice) (q : Bool) (r a : Operand StrNo) (key : Operand Key) (nr na : StrNo) (k : Key),
    s.StructuresOk → RAKIs s r a key nr na k → s.present nr = false → s.present na = true →
    s.setopAnswers.headD (Config.setopSpace s.draws) = .ok →
    ∃ t, exec (op.instr q r a key) s = .next t ∧ UpdateFrame nr s t ∧ t.insAnswers = s.insAnswers ∧
      t.setopAnswers = s.setopAnswers.tail ∧ Succeeded q .ok s t ∧ ExistsIfHolding nr t ∧
      ∀ j, t.lookup nr j = if op.selects j k = true then s.lookup na j else none

/-- A set operation or slice without space reports E_NO_SPACE; R becomes any valid structure and every other structure
is unchanged. There is no space when the oracle says so, and, whatever it says, for a union of more than STR_VAL keys
(R192, R199; U7, D11, D16, log 18, log 19). -/
def Obligations.NoSpaceRedrawsOnlyResult : Prop :=
  ∀ (s : State) (i : Instr) (q : Bool) (r a b : Operand StrNo) (key : Operand Key) (nr na nb : StrNo) (k : Key),
    s.StructuresOk →
    (((∃ op : SetOp, i = op.instr q r a b) ∧ RABIs s r a b nr na nb ∧ s.present nb = true ∧
        s.setopAnswers.headD (Config.setopSpace s.draws) = .fail) ∨
      ((∃ op : SetOp, i = op.instr q r a b ∧ op.unites s.params.pairing = true) ∧ RABIs s r a b nr na nb ∧
        s.present nb = true ∧ ∃ ks : List Key, ks.Nodup ∧ Config.strVal < ks.length ∧
          ∀ j ∈ ks, (s.lookup na j).isSome ∨ (s.lookup nb j).isSome) ∨
      ((∃ op : Slice, i = op.instr q r a key) ∧ RAKIs s r a key nr na k ∧
        s.setopAnswers.headD (Config.setopSpace s.draws) = .fail)) →
    s.present nr = false → s.present na = true →
    ∃ t, exec i s = .next t ∧ UpdateFrame nr s t ∧ t.insAnswers = s.insAnswers ∧
      t.setopAnswers = s.setopAnswers.tail ∧ Failed q .eNoSpace s t ∧ t.StructuresOk

/-- SQ changes no map: it reports whether the structure exists (R207; the storage layout is out of scope, log 31). -/
def Obligations.SqueezeReportsExistence : Prop :=
  ∀ (s : State) (q : Bool) (str : Operand StrNo) (n : StrNo), StrIs s str n →
    ∃ t, exec (.sq q str) s = .next t ∧ QueryFrame s t ∧
      (s.present n = false → Failed q .eNoStruct s t) ∧ (s.present n = true → Succeeded q .ok s t)

/-! ### JT -/

/-- JT with T0 = 1 jumps to its address, absolute and in command slots. With T0 = 0 it jumps on the datum 1 and goes on
with the next command on the datum 0, in both cases only once the address is known; any other datum is refused by name.
It writes nothing but IP, the wait it ends and the fetch unit it leaves (R213, R216, R217; U10, D41, D42).
An address sent as a datum is the datum's low JT_ADDR_BITS bits (R120; D30), bits above bit 63 being 0 by the model's
choice (log 38). -/
def Obligations.JumpFollowsItsTag : Prop :=
  ∀ (s : State) (addr : Operand Nat) (a : Nat), s.issuer = .misd → s.params.ddrBist = true →
    resolve (addrOfDatum s.params) addr s.wait.t1 = some a →
    exec (.jt true addr) s = .next { s with ip := a, wait := TagWait.idle, fetched := none } ∧
    ∀ d, s.wait.t0 = .received d →
      exec (.jt false addr) s =
        if d = 1#64 then .next { s with ip := a, wait := TagWait.idle, fetched := none }
        else if d = 0#64 then .next { s with ip := s.ip + 1, wait := TagWait.idle, fetched := none }
        else .refused (.jtTagDatum d)

/-- A JT of the coprocessor stream, and a CMD write whose opcode is OPC_JT, change nothing (R218, R232; D41). -/
def Obligations.CpuJumpIsDiscarded : Prop :=
  (∀ (s : State) (t0 : Bool) (addr : Operand Nat), s.issuer = .coprocessor → exec (.jt t0 addr) s = .next s) ∧
  ∀ (s : State) (w : Reg), s.params.wf → (cmdFields s.params.cmdLayout w).opc = s.params.opcJt →
    s.hostAccess (.write 0x40 4 w) = .next s

/-! ### The host -/

/-- A CMD write with an assigned opcode queues the command with the key and value of that moment; a full queue loses
it and sets OVF_FLAG when enabled; an unassigned opcode is refused by name (R232, R235, R268; U2, D23, D28, D40). -/
def Obligations.CmdWriteQueuesCommand : Prop :=
  ∀ (s : State) (w : Reg) (c : CmdFields), c = cmdFields s.params.cmdLayout w → s.control0.getLsbD 1 = false →
    (assignedOpcode c.opc = true → s.c2s.length < s.params.c2sDepth →
      s.hostAccess (.write 0x40 4 w) =
        .next { s with c2s := s.c2s ++ [⟨c.opc, c.q, c.s0, c.s1, c.s2, s.keyW, s.valueW⟩] }) ∧
    (assignedOpcode c.opc = true → s.params.c2sDepth ≤ s.c2s.length →
      s.hostAccess (.write 0x40 4 w) = .next { s with ovfFlag := s.ovfFlag || s.control0.getLsbD 6 }) ∧
    (assignedOpcode c.opc = false → c.opc ≠ s.params.opcJt →
      s.hostAccess (.write 0x40 4 w) = .refused (.unassignedCommand c.opc))

/-- While CONTROL0 bit 1 is 1 a write to CMD enters no command in C2S, and the bit is 0 by default (R43). That such a
write of an assigned opcode drops the command and signals nothing, OVF_FLAG included, is the spec's decision (R234;
U13, D23, log 4, log 28). -/
def Obligations.EntryStopKeepsCommandsOut : Prop :=
  (∀ (s t : State) (w : Reg), s.control0.getLsbD 1 = true → s.hostAccess (.write 0x40 4 w) = .next t →
    t.c2s = s.c2s) ∧
  (∀ (s : State) (w : Reg), s.control0.getLsbD 1 = true →
    assignedOpcode (cmdFields s.params.cmdLayout w).opc = true → s.hostAccess (.write 0x40 4 w) = .next s) ∧
  State.reset.control0.getLsbD 1 = false

/-- R246: a write of v to TAGi_H delivers v ++ TAG_L as the operand guarded by tag i when the stream waits for it,
and is refused otherwise (U3); TAG_L is written at its own offset and keeps its value. -/
def Obligations.TagWriteDeliversDatum : Prop :=
  ∀ (s : State) (v : Reg),
    (s.hostAccess (.write 0x60 4 v) = .next { s with tagL := v }) ∧
    (s.hostAccess (.write 0x80 4 v) = if s.wait.t0 = .awaited then
      .next { s with wait := { s.wait with t0 := .received (v ++ s.tagL) } } else .refused (.tagNotAwaited 0)) ∧
    (s.hostAccess (.write 0x84 4 v) = if s.wait.t1 = .awaited then
      .next { s with wait := { s.wait with t1 := .received (v ++ s.tagL) } } else .refused (.tagNotAwaited 1)) ∧
    (s.hostAccess (.write 0x88 4 v) = if s.wait.t2 = .awaited then
      .next { s with wait := { s.wait with t2 := .received (v ++ s.tagL) } } else .refused (.tagNotAwaited 2)) ∧
    (∀ {α : Type} (f : Datum → α) (d : Datum), resolve f .awaited (.received d) = some (f d))

/-- The MISD stream can move only while CONTROL0 bit 0 is 1, and it can while the bit is 1 and it waits for nothing; the
bit is 0 by default (R42, R211). That a command fetched before, whose data have all come, does not execute either while
the bit is 0 is the model's reading of R211 (log 11). -/
def Obligations.MisdRunsOnlyWhenEnabled : Prop :=
  (∀ s : State, s.control0.getLsbD 0 = false → s.mover ≠ some .misd) ∧
  (∀ s : State, s.wait.blocked = false → (Agent.misd ∈ s.enabledAgents ↔ s.control0.getLsbD 0 = true)) ∧
  State.reset.control0.getLsbD 0 = false

/-- A CONTROL0 write replaces the whole value (R41), unless it sets bits 2 and 3 at once, which is refused by name
(U14), or clears bit 0 while the stream waits for a tag, which is refused by name (R211; U11). It is admitted when the
host's next pending access is the CONTROL1 write with bit 6 or bit 0 that abandons the wait; that the next pending access
is what U11 calls the same host sequence is the model's reading (log 11). -/
def Obligations.Control0WriteReplacesValue : Prop :=
  ∀ (s : State) (v : Reg),
    (v.getLsbD 2 = true → v.getLsbD 3 = true → s.hostAccess (.write 0x44 4 v) = .refused .lcmAndLsmEnabled) ∧
    ((v.getLsbD 2 = false ∨ v.getLsbD 3 = false) → (v.getLsbD 0 = true ∨ s.wait.blocked = false ∨
        ∃ w rest, s.pci2sys = .write 0x48 4 w :: rest ∧ (w.getLsbD 6 = true ∨ w.getLsbD 0 = true)) →
      s.hostAccess (.write 0x44 4 v) = .next { s with control0 := v }) ∧
    ((v.getLsbD 2 = false ∨ v.getLsbD 3 = false) → v.getLsbD 0 = false → s.wait.blocked = true →
      (∀ w rest, s.pci2sys = .write 0x48 4 w :: rest → w.getLsbD 6 = false ∧ w.getLsbD 0 = false) →
      s.hostAccess (.write 0x44 4 v) = .refused .misdStoppedWhileWaiting)

/-- R54, R58, R59: CONTROL1 bit 3 sets TSC to 0, bit 7 clears DR_FLAG, bit 8 clears OVF_FLAG, whatever the other bits;
written alone they change nothing else. -/
def Obligations.Control1ClearsTscAndFlags : Prop :=
  ∀ s : State,
    s.hostAccess (.write 0x48 4 0x008) = .next { s with tsc := 0 } ∧
    s.hostAccess (.write 0x48 4 0x080) = .next { s with drFlag := false } ∧
    s.hostAccess (.write 0x48 4 0x100) = .next { s with ovfFlag := false } ∧
    ∀ (v : Reg) (t : State), s.hostAccess (.write 0x48 4 v) = .next t →
      (v.getLsbD 3 = true → t.tsc = 0) ∧ (v.getLsbD 7 = true → t.drFlag = false) ∧
      (v.getLsbD 8 = true → t.ovfFlag = false)

/-- R55: CONTROL1 bit 4 removes the oldest entry of S2C, after which KEYQ, VALUEQ and ERRORQ show the next oldest;
with S2C empty the rule gives no behaviour and the write is refused (U12). With bit 4 set beside other bits than 0 and 2,
which clear the queue, the same entry is removed. -/
def Obligations.Control1ShiftsResultQueue : Prop :=
  ∀ s : State,
    (∀ e rest, s.s2c = e :: rest → ∃ t, s.hostAccess (.write 0x48 4 0x010) = .next t ∧ t = { s with s2c := rest } ∧
      (s.params.wf → ∀ e' rest' any, rest = e' :: rest' →
        t.readWindow 0x44 any ++ t.readWindow 0x40 any = e'.key ∧
        t.readWindow 0x64 any ++ t.readWindow 0x60 any = e'.value ∧
        (t.readWindow 0x90 any).getLsbD 2 = !e'.v)) ∧
    (∀ (v : Reg) e rest, v.getLsbD 4 = true → v.getLsbD 0 = false → v.getLsbD 2 = false → s.s2c = e :: rest →
      ∃ t, s.hostAccess (.write 0x48 4 v) = .next t ∧ t.s2c = rest) ∧
    (s.s2c = [] → s.hostAccess (.write 0x48 4 0x010) = .refused .popOfEmptyResultQueue)

/-- CONTROL1 bits 1, 2, 5 and 6: the PCIe queues, the result queue with OWR, the head of the local-memory read queue,
IP with the wait and the fetched command; nothing else changes, and a write of 0 does nothing (R50, R52, R53, R56, R57;
D18, D24, log 6). That bit 5 does nothing when the local-memory read queue is empty, and that bits 6 and 0 drop a fetched
command also when its data have all come, is the model's choice (log 13, log 37). Bit 0 deletes every structure and
resets the machine, but keeps CONTROL0, LCM, TSC, the host-written registers, the parameters (R51, R76; D33) and, by the
model's choice, the local-memory read queue (log 13). -/
def Obligations.Control1ResetsSubsystems : Prop :=
  ∀ s : State,
    s.hostAccess (.write 0x48 4 0x000) = .next s ∧
    s.hostAccess (.write 0x48 4 0x002) = .next { s with pci2sys := [], sys2pci := [] } ∧
    s.hostAccess (.write 0x48 4 0x004) = .next { s with s2c := [], owr := false } ∧
    s.hostAccess (.write 0x48 4 0x020) = .next { s with dmaRead := s.dmaRead.tail } ∧
    s.hostAccess (.write 0x48 4 0x040) = .next { s with ip := 0, wait := TagWait.idle, fetched := none } ∧
    ∃ t, s.hostAccess (.write 0x48 4 0x001) = .next t ∧
      (∀ n, t.present n = false) ∧ t.ip = 0 ∧ t.wait = TagWait.idle ∧ t.fetched = none ∧ t.c2s = [] ∧
      t.s2c = [] ∧ t.pci2sys = [] ∧ t.sys2pci = [] ∧ t.drFlag = false ∧ t.ovfFlag = false ∧ t.owr = false ∧ t.last.r = true ∧ t.ready = true ∧
      t.control0 = s.control0 ∧ t.lcm = s.lcm ∧ t.tsc = s.tsc ∧ t.keyW = s.keyW ∧ t.valueW = s.valueW ∧
      t.tagL = s.tagL ∧ t.lcmwAdr = s.lcmwAdr ∧ t.lcmrAdr = s.lcmrAdr ∧ t.lsmwAdr = s.lsmwAdr ∧
      t.lsmrAdr = s.lsmrAdr ∧ t.lmdW = s.lmdW ∧ t.dmaRead = s.dmaRead ∧ t.params = s.params

/-- Writes to the operand registers store their half or word and change nothing else (R36, R38). With LSM access
enabled, writes to LSMW_ADR and LMDi are refused by name (R254; U15, log 15). The model's choices: a write to LCMW_ADR or
LMDi writes no slot of LCM whatever CONTROL0 bit 2 is (R251; D32, log 14), and a write to LCMR_ADR or LSMR_ADR with its
access enabled stores its word and appends data no rule gives to the local-memory read queue, which never is full (R252; log 13). -/
def Obligations.OperandRegisterWritesStore : Prop :=
  ∀ (s : State) (v : Reg),
    s.hostAccess (.write 0x00 4 v) = .next { s with keyW := s.keyW.extractLsb' 32 32 ++ v } ∧
    s.hostAccess (.write 0x04 4 v) = .next { s with keyW := v ++ s.keyW.extractLsb' 0 32 } ∧
    s.hostAccess (.write 0x20 4 v) = .next { s with valueW := s.valueW.extractLsb' 32 32 ++ v } ∧
    s.hostAccess (.write 0x24 4 v) = .next { s with valueW := v ++ s.valueW.extractLsb' 0 32 } ∧
    s.hostAccess (.write 0x50 4 v) = .next { s with lcmwAdr := v } ∧
    (s.control0.getLsbD 2 = false → s.hostAccess (.write 0x54 4 v) = .next { s with lcmrAdr := v }) ∧
    (s.control0.getLsbD 2 = true → ∃ ds, s.hostAccess (.write 0x54 4 v) =
      .next { s with lcmrAdr := v, dmaRead := s.dmaRead ++ ds }) ∧
    (s.hostAccess (.write 0x58 4 v) =
      if s.control0.getLsbD 3 = true then .refused .lsmWrite else .next { s with lsmwAdr := v }) ∧
    (s.control0.getLsbD 3 = false → s.hostAccess (.write 0x5C 4 v) = .next { s with lsmrAdr := v }) ∧
    (s.control0.getLsbD 3 = true → ∃ ds, s.hostAccess (.write 0x5C 4 v) =
      .next { s with lsmrAdr := v, dmaRead := s.dmaRead ++ ds }) ∧
    (∀ i : Fin 16, s.hostAccess (.write (0xC0 + 4 * i) 4 v) =
      if s.control0.getLsbD 3 = true then .refused .lsmWrite else .next { s with lmdW := s.lmdW.set i v })

/-- A read of the window changes nothing but that its reply goes to the bus (R85; log 5), and returns what R38 and R87
say: the low half of a 64-bit quantity at the lower offset; at the offsets of STATE0 and STATE1 the status words, whose
bits State0ShowsQueues and StatusBitsFollowState state, with values no rule gives in the other bits (R60, R70; D27).
LCMD, and LMD while LSM is behind it, show the head of the local-memory read queue (R252); that both show parts of one
512-bit datum, and LCMD whatever CONTROL0 bit 2 is, is the model's choice (log 13). What an offset without a read side
returns is not stated. -/
def Obligations.WindowReadsReturnRegisters : Prop :=
  ∀ (s : State) (addr : Nat), s.params.wf → addr % 4 = 0 → addr < 256 →
    ∃ w : Reg, s.hostAccess (.read addr 4) = .next { s with sys2pci := s.sys2pci ++ [.word w] } ∧
      (addr = 0x00 → w = s.last.key.extractLsb' 0 32) ∧ (addr = 0x04 → w = s.last.key.extractLsb' 32 32) ∧
      (addr = 0x20 → w = s.last.value.extractLsb' 0 32) ∧ (addr = 0x24 → w = s.last.value.extractLsb' 32 32) ∧
      (∀ e rest, s.s2c = e :: rest →
        (addr = 0x40 → w = e.key.extractLsb' 0 32) ∧ (addr = 0x44 → w = e.key.extractLsb' 32 32) ∧
        (addr = 0x60 → w = e.value.extractLsb' 0 32) ∧ (addr = 0x64 → w = e.value.extractLsb' 32 32)) ∧
      (addr = 0x80 → w = s.last.power) ∧ (addr = 0x84 → w = s.tsc.extractLsb' 0 32) ∧
      (addr = 0x88 → w = s.tsc.extractLsb' 32 32) ∧
      (addr = 0x90 ∨ addr = s.params.state1Offset → ∃ any, w = s.readWindow addr any) ∧
      (∀ d rest (i : Fin 5), s.dmaRead = d :: rest → addr = 0xA0 + 4 * i → w = d.extractLsb' (32 * i) 32) ∧
      (∀ d rest (i : Fin 16), s.dmaRead = d :: rest → s.control0.getLsbD 3 = true → addr = 0xC0 + 4 * i →
        w = d.extractLsb' (32 * i) 32)

/-- R63, R64, R66: STATE0 bit 2 is NOT V of the oldest S2C entry, bit 3 is OWR, and bit 5 is 1 exactly when C2S holds
C2S_DEPTH entries; with S2C empty bit 2 is a value no rule gives. -/
def Obligations.State0ShowsQueues : Prop :=
  ∀ (s : State) (any : Reg), s.params.wf → s.QueuesOk →
    (∀ e rest, s.s2c = e :: rest → (s.readWindow 0x90 any).getLsbD 2 = !e.v) ∧
    (s.s2c = [] → (s.readWindow 0x90 any).getLsbD 2 = any.getLsbD 2) ∧
    (s.readWindow 0x90 any).getLsbD 3 = s.owr ∧
    ((s.readWindow 0x90 any).getLsbD 5 = true ↔ s.c2s.length = s.params.c2sDepth)

/-- STATE0 bit 0 is 1 exactly when C2S is empty, bit 1 is NOT LAST.V, bit 4 is DDR_BIST; STATE1 bits 2, 3, 5, 6 and 7
show S2C, C2S and the two interrupt lines (R61, R62, R65, R70, R266, R268; D27, D39, and the polarity the spec infers).
STATE1 bits 0, 1 and 4 show PCI2SYS and SYS2PCI, whose entries, and the depth of PCI2SYS, are the model's choice (R34,
which lets these bits be draws; log 5): empty, not less than the depth, empty. -/
def Obligations.StatusBitsFollowState : Prop :=
  ∀ (s : State) (any : Reg), s.params.wf → s.QueuesOk →
    ((s.readWindow 0x90 any).getLsbD 0 = true ↔ s.c2s = []) ∧ (s.readWindow 0x90 any).getLsbD 1 = !s.last.v ∧
    (s.readWindow 0x90 any).getLsbD 4 = s.params.ddrBist ∧
    ((s.readWindow s.params.state1Offset any).getLsbD 0 = true ↔ s.pci2sys = []) ∧
    ((s.readWindow s.params.state1Offset any).getLsbD 1 = true ↔ s.params.pci2sysDepth ≤ s.pci2sys.length) ∧
    ((s.readWindow s.params.state1Offset any).getLsbD 2 = true ↔ s.s2c = []) ∧
    ((s.readWindow s.params.state1Offset any).getLsbD 3 = true ↔ s.s2c.length = s.params.s2cDepth) ∧
    ((s.readWindow s.params.state1Offset any).getLsbD 4 = true ↔ s.sys2pci = []) ∧
    ((s.readWindow s.params.state1Offset any).getLsbD 5 = true ↔ s.c2s = []) ∧
    (s.readWindow s.params.state1Offset any).getLsbD 6 = s.drFlag ∧
    (s.readWindow s.params.state1Offset any).getLsbD 7 = s.ovfFlag

/-- An access that is not an aligned 32-bit access inside the window, and a write to an offset without a write side,
are refused by name (R39, R84; U4, D25, D26). -/
def Obligations.BadAccessesAreRefused : Prop :=
  (∀ (s : State) (addr size : Nat), (size ≠ 4 ∨ addr % 4 ≠ 0 ∨ 256 ≤ addr) →
    s.hostAccess (.read addr size) = .refused (.badWindowAccess addr size) ∧
    ∀ v, s.hostAccess (.write addr size v) = .refused (.badWindowAccess addr size)) ∧
  ∀ (s : State) (addr : Nat) (v : Reg), addr % 4 = 0 → addr < 0xC0 →
    addr ∉ [0x00, 0x04, 0x20, 0x24, 0x40, 0x44, 0x48, 0x50, 0x54, 0x58, 0x5C, 0x60, 0x80, 0x84, 0x88] →
    s.hostAccess (.write addr 4 v) = .refused (.noWriteSide addr)

/-- HostLoadLCM writes one slot while the MISD mode is off and the stream waits for no tag, every other slot reads as
before, and a later fetch there sees it, while a command fetched before stays as it was fetched; it is refused by name
while the mode is on and while the stream waits (R94, R251; U11, D32, D34, log 10). HostReadLCM returns the slot
(R253). -/
def Obligations.LcmLoadIsSeenByFetch : Prop :=
  ∀ (s : State) (a : Nat) (c : Slot),
    ((s.misdEnabled = true ∨ s.wait.blocked = true) →
      s.hostAccess (.loadLcm a c) = .refused .lcmLoadWhileMisd) ∧
    (s.misdEnabled = false → s.wait.blocked = false → a < s.params.lcmSlots →
      ∃ t, s.hostAccess (.loadLcm a c) = .next t ∧ t = { s with lcm := t.lcm } ∧
        (∀ b, t.lcm.read b = if b = a then some c else s.lcm.read b) ∧
        (s.fetched = none → s.ip = a → ∀ i, decode s.params c = .ok i → t.fetch = .ok (c, i)) ∧
        (∀ c', s.fetched = some c' → ∀ i, decode s.params c' = .ok i → t.fetch = .ok (c', i)) ∧
        t.hostAccess (.readLcm a) = .next { t with sys2pci := t.sys2pci ++ [.slot c] })

/-! ### The whole machine -/

/-- IP is written only by the MISD stream and by CONTROL1 bits 6 and 0, which give 0, and by a hardware reset
(R27, R57, R76; D18). -/
def Obligations.OnlyJumpsAndFetchMoveIp : Prop :=
  ∀ s t : State, s.rst = false → step s = .next t → t.ip ≠ s.ip →
    s.mover = some .misd ∨
    (t.ip = 0 ∧ ∃ v, HostWrites s 0x48 v ∧ (v.getLsbD 6 = true ∨ v.getLsbD 0 = true))

/-- DR_FLAG, OVF_FLAG and OWR, once set, are cleared only by their bits of CONTROL1, by bit 0 and by a hardware reset
(R240, R267, R269; D24, D28). -/
def Obligations.FlagsStayUntilCleared : Prop :=
  ∀ s t : State, s.rst = false → step s = .next t →
    (s.drFlag = true → t.drFlag = false → ∃ v, HostWrites s 0x48 v ∧ (v.getLsbD 7 = true ∨ v.getLsbD 0 = true)) ∧
    (s.ovfFlag = true → t.ovfFlag = false → ∃ v, HostWrites s 0x48 v ∧ (v.getLsbD 8 = true ∨ v.getLsbD 0 = true)) ∧
    (s.owr = true → t.owr = false → ∃ v, HostWrites s 0x48 v ∧ (v.getLsbD 2 = true ∨ v.getLsbD 0 = true))

/-- CONTROL0 keeps its value until the host writes it or the hardware is reset (R41). LCM is written only by the host's
load, which happens only while the MISD mode is off, and by a hardware reset (R28, R94, R251; D34, log 14). The
parameters are written by nothing (log 1). -/
def Obligations.OnlyHostWritesControl0AndLcm : Prop :=
  ∀ s t : State, s.rst = false → step s = .next t → t.params = s.params ∧
    (t.control0 ≠ s.control0 → HostWrites s 0x44 t.control0) ∧
    (t.lcm ≠ s.lcm → s.misdEnabled = false ∧ s.mover = some .host ∧
      ∃ a c, s.pci2sys.head? = some (.loadLcm a c) ∧ ∀ b, t.lcm.read b = if b = a then some c else s.lcm.read b)

/-- TSC holds its value while it is disabled and never decreases while it is enabled, unless CONTROL1 bit 3 sets it
to 0 (R54, R275; D36, log 16). -/
def Obligations.TscGrowsOnlyWhileEnabled : Prop :=
  ∀ s t : State, s.rst = false → step s = .next t →
    (∃ v, HostWrites s 0x48 v ∧ v.getLsbD 3 = true ∧ t.tsc = 0) ∨
    (if s.control0.getLsbD 4 = true then s.tsc ≤ t.tsc else t.tsc = s.tsc)
end

