-- ==== Sys2Proof/Laws/Maps.lean ====
section
/-! SUPPORT. The laws of the finite maps and of the local command memory: reading after writing, and that every
operation keeps the canonical form (spec/00_scope.md R12, spec/10_state.md R21, R28). -/

namespace Sys2Proof

/-- The value of STR_VAL (R4, R6). -/
theorem Config.strVal_eq : Config.strVal = 100663296 := rfl

theorem PairMap.get_nil (k : Key) : PairMap.get [] k = none := rfl

theorem PairMap.get_cons (p : Key × Value) (m : PairMap) (k : Key) :
    PairMap.get (p :: m) k = if p.1 = k then some p.2 else PairMap.get m k := by
  unfold PairMap.get
  by_cases h : p.1 = k <;> simp [h]

/-- In a canonical map a key not above the first is found at the head or not at all. -/
theorem PairMap.get_eq_none_of_lt {m : PairMap} {k : Key} (h : ∀ p ∈ m, k < p.1) : m.get k = none := by
  induction m with
  | nil => rfl
  | cons p m ih =>
    have hp := h p (by simp)
    rw [PairMap.get_cons, if_neg (by bv_omega), ih fun q hq => h q (by simp [hq])]

/-- What a canonical map lists is what it holds. -/
theorem PairMap.get_eq_some_iff {m : PairMap} (hm : m.Sorted) (k : Key) (v : Value) :
    m.get k = some v ↔ (k, v) ∈ m := by
  induction m with
  | nil => simp [PairMap.get]
  | cons p m ih =>
    have ⟨hp, hs⟩ := List.pairwise_cons.mp hm
    rw [PairMap.get_cons]
    by_cases h : p.1 = k
    · subst h
      simp only [if_true, List.mem_cons, Option.some.injEq]
      constructor
      · rintro rfl; exact .inl rfl
      · rintro (h | h)
        · rw [← h]
        · have := hp _ h; bv_omega
    · simp only [h, if_false, ih hs, List.mem_cons]
      constructor
      · exact .inr
      · rintro (h' | h')
        · exact absurd (by rw [← h']) h
        · exact h'

/-- A key is held when some pair lists it. -/
theorem PairMap.has_iff {m : PairMap} (k : Key) : m.has k = true ↔ ∃ v, m.get k = some v := by
  simp [PairMap.has, Option.isSome_iff_exists]

theorem PairMap.has_iff_mem {m : PairMap} (k : Key) : m.has k = true ↔ ∃ p ∈ m, p.1 = k := by
  induction m with
  | nil => simp [PairMap.has, PairMap.get]
  | cons p m ih =>
    unfold PairMap.has at *
    rw [PairMap.get_cons]
    by_cases h : p.1 = k
    · simp [h]
    · simp [h, ih]

theorem PairMap.mem_put {m : PairMap} {k : Key} {v : Value} {p : Key × Value} (h : p ∈ m.put k v) :
    p = (k, v) ∨ p ∈ m := by
  induction m with
  | nil => simpa [PairMap.put] using h
  | cons q m ih =>
    unfold PairMap.put at h
    split at h
    · simpa using h
    · split at h
      · simp at h ⊢; tauto
      · rcases List.mem_cons.mp h with h | h
        · simp [h]
        · rcases ih h with h | h <;> simp [h]

/-- Putting a pair keeps the canonical form. -/
theorem PairMap.put_sorted {m : PairMap} (hm : m.Sorted) (k : Key) (v : Value) :
    PairMap.Sorted (m.put k v) := by
  induction m with
  | nil => simp [PairMap.put, PairMap.Sorted]
  | cons q m ih =>
    have ⟨hq, hs⟩ := List.pairwise_cons.mp hm
    unfold PairMap.put
    split
    · next hlt =>
      refine List.pairwise_cons.mpr ⟨fun p hp => ?_, hm⟩
      rcases List.mem_cons.mp hp with rfl | hp
      · exact hlt
      · have := hq p hp; show k < p.1; bv_omega
    · split
      · next _ heq =>
        refine List.pairwise_cons.mpr ⟨fun p hp => ?_, hs⟩
        have := hq p hp
        show k < p.1
        rw [← heq]; exact this
      · next hnlt hne =>
        refine List.pairwise_cons.mpr ⟨fun p hp => ?_, ih hs⟩
        rcases PairMap.mem_put hp with rfl | hp
        · show q.1 < k; bv_omega
        · exact hq p hp

/-- Reading after putting (R12). -/
theorem PairMap.get_put (m : PairMap) (k : Key) (v : Value) (j : Key) :
    PairMap.get (m.put k v) j = if k = j then some v else m.get j := by
  induction m with
  | nil => simp [PairMap.put, PairMap.get_cons, PairMap.get_nil]
  | cons q m ih =>
    unfold PairMap.put
    split
    · simp [PairMap.get_cons]
    · split
      · next _ heq => simp only [PairMap.get_cons, heq]; split <;> rfl
      · next _ hne =>
        simp only [PairMap.get_cons, ih]
        by_cases h : q.1 = j
        · simp [h, show ¬ k = j from fun e => hne (by rw [h, e])]
        · simp [h]

/-- Keys without repeats that a map holds are no more than its pairs. -/
theorem PairMap.length_le_of_keys {m : PairMap} {ks : List Key} (hn : ks.Nodup)
    (h : ∀ j ∈ ks, (m.get j).isSome = true) : ks.length ≤ m.length := by
  have hs : ks ⊆ m.map Prod.fst := fun j hj => by
    obtain ⟨v, hv⟩ := Option.isSome_iff_exists.mp (h j hj)
    obtain ⟨p, hp, he⟩ := (PairMap.has_iff_mem j).mp ((PairMap.has_iff j).mpr ⟨v, hv⟩)
    exact List.mem_map.mpr ⟨p, hp, he⟩
  simpa using (hn.subperm hs).length_le

/-- Putting adds at most one pair. -/
theorem PairMap.length_put_le (m : PairMap) (k : Key) (v : Value) : (m.put k v).length ≤ m.length + 1 := by
  induction m with
  | nil => simp [PairMap.put]
  | cons q m ih => unfold PairMap.put; (split <;> [skip; split]) <;> simp; omega

/-- Putting a key that is held changes no count. -/
theorem PairMap.length_put_of_has {m : PairMap} (hm : m.Sorted) {k : Key} (h : m.has k = true) (v : Value) :
    (m.put k v).length = m.length := by
  induction m with
  | nil => simp [PairMap.has, PairMap.get] at h
  | cons q m ih =>
    have ⟨hq, hs⟩ := List.pairwise_cons.mp hm
    obtain ⟨p, hp, rfl⟩ := (PairMap.has_iff_mem k).mp h
    unfold PairMap.put
    rcases List.mem_cons.mp hp with rfl | hp'
    · rw [if_neg (by bv_omega), if_pos rfl]; simp
    · have := hq p hp'
      rw [if_neg (by bv_omega), if_neg (by bv_omega)]
      simp [ih hs ((PairMap.has_iff_mem _).mpr ⟨p, hp', rfl⟩)]

theorem PairMap.put_ne_nil (m : PairMap) (k : Key) (v : Value) : m.put k v ≠ [] := by
  cases m with
  | nil => simp [PairMap.put]
  | cons q m => unfold PairMap.put; split <;> [skip; split] <;> simp

/-- Selecting pairs keeps the canonical form. -/
theorem PairMap.filter_sorted {m : PairMap} (hm : m.Sorted) (f : Key × Value → Bool) :
    PairMap.Sorted (m.filter f) := hm.filter f

theorem PairMap.get_filter (m : PairMap) (f : Key → Bool) (k : Key) :
    PairMap.get (m.filter fun p => f p.1) k = if f k then m.get k else none := by
  induction m with
  | nil => simp [PairMap.get]
  | cons q m ih =>
    by_cases h : f q.1 <;> by_cases h' : q.1 = k <;>
      simp_all [PairMap.get_cons]

/-- Reading after erasing (R12). -/
theorem PairMap.get_erase (m : PairMap) (k j : Key) :
    (m.erase k).get j = if k = j then none else m.get j := by
  have := PairMap.get_filter m (fun x => x != k) j
  simp only [PairMap.erase]
  rw [this]
  by_cases h : k = j
  · simp [h]
  · simp [h, Ne.symm h]

/-- Erasing a held key of a canonical map takes away one pair. -/
theorem PairMap.length_erase_of_has {m : PairMap} (hm : m.Sorted) {k : Key} (h : m.has k = true) :
    (m.erase k).length + 1 = m.length := by
  induction m with
  | nil => simp [PairMap.has, PairMap.get] at h
  | cons q m ih =>
    have ⟨hq, hs⟩ := List.pairwise_cons.mp hm
    obtain ⟨p, hp, rfl⟩ := (PairMap.has_iff_mem k).mp h
    unfold PairMap.erase at *
    rcases List.mem_cons.mp hp with rfl | hp'
    · have : m.filter (fun r => r.1 != p.1) = m := by
        refine List.filter_eq_self.mpr fun r hr => ?_
        have := hq r hr
        simp only [bne_iff_ne, ne_eq]
        bv_omega
      simp [this]
    · have hlt := hq p hp'
      have hne : q.1 ≠ p.1 := by bv_omega
      have ih := ih hs ((PairMap.has_iff_mem _).mpr ⟨p, hp', rfl⟩)
      simp [hne, ih]

theorem PairMap.length_erase_le (m : PairMap) (k : Key) : (m.erase k).length ≤ m.length :=
  List.length_filter_le _ _

theorem PairMap.erase_sorted {m : PairMap} (hm : m.Sorted) (k : Key) : (m.erase k).Sorted :=
  PairMap.filter_sorted hm _

/-- A slice holds the selected keys with their values (R199). -/
theorem PairMap.get_slice (m : PairMap) (sel : Key → Bool) (k : Key) :
    (m.slice sel).get k = if sel k then m.get k else none := PairMap.get_filter m sel k

theorem PairMap.slice_sorted {m : PairMap} (hm : m.Sorted) (sel : Key → Bool) : (m.slice sel).Sorted :=
  PairMap.filter_sorted hm _

/-- DIFF holds A's pairs whose key B does not hold (R191). -/
theorem PairMap.get_diff (ma mb : PairMap) (k : Key) :
    (ma.diff mb).get k = if mb.has k then none else ma.get k := by
  have := PairMap.get_filter ma (fun x => !mb.has x) k
  unfold PairMap.diff
  rw [this]
  cases mb.has k <;> simp

theorem PairMap.diff_sorted {ma : PairMap} (ha : ma.Sorted) (mb : PairMap) : (ma.diff mb).Sorted :=
  PairMap.filter_sorted ha _

theorem PairMap.inter_sorted {ma : PairMap} (ha : ma.Sorted) (keepsA : Key → Bool) (mb : PairMap) :
    PairMap.Sorted (PairMap.inter keepsA ma mb) := by
  refine List.Pairwise.filterMap _ (fun p q hpq x hx y hy => ?_) ha
  simp only [Option.map_eq_some_iff] at hx hy
  obtain ⟨_, _, rfl⟩ := hx
  obtain ⟨_, _, rfl⟩ := hy
  exact hpq

/-- INTER holds the keys of both, with one of the two values (R191). -/
theorem PairMap.get_inter (keepsA : Key → Bool) (ma mb : PairMap) (k : Key) :
    (PairMap.inter keepsA ma mb).get k =
      (ma.get k).bind fun v => (mb.get k).map fun w => if keepsA k then v else w := by
  induction ma with
  | nil => simp [PairMap.inter, PairMap.get]
  | cons q m ih =>
    unfold PairMap.inter at *
    rw [List.filterMap_cons]
    by_cases h : q.1 = k
    · subst h
      rcases hb : mb.get q.1 with _ | w
      · simp only [hb, Option.map_none] at ih ⊢
        rw [ih]; simp
      · simp [PairMap.get_cons]
    · rcases hb : mb.get q.1 with _ | w
      · simp only [Option.map_none]; rw [ih]; simp [PairMap.get_cons, h]
      · simp only [Option.map_some, PairMap.get_cons, h, if_false]; exact ih

theorem PairMap.length_inter_le (keepsA : Key → Bool) (ma mb : PairMap) :
    (PairMap.inter keepsA ma mb).length ≤ ma.length := List.length_filterMap_le _ _

theorem PairMap.union_sorted {ma : PairMap} (ha : ma.Sorted) (keepsA : Key → Bool) (mb : PairMap) :
    PairMap.Sorted (PairMap.union keepsA ma mb) := by
  unfold PairMap.union
  suffices ∀ (l acc : PairMap), acc.Sorted →
      PairMap.Sorted (l.foldl (fun m p => if ma.has p.1 && keepsA p.1 then m else m.put p.1 p.2) acc) from
    this mb ma ha
  intro l
  induction l with
  | nil => exact fun _ h => h
  | cons p l ih =>
    intro acc h
    refine ih _ ?_
    show PairMap.Sorted (if _ then _ else _)
    split
    · exact h
    · exact PairMap.put_sorted h _ _

/-- UNION holds the keys of either, with a value of a source that holds it (R191). -/
theorem PairMap.get_union {ma mb : PairMap} (ha : ma.Sorted) (hb : mb.Sorted) (keepsA : Key → Bool) (k : Key) :
    (PairMap.union keepsA ma mb).get k =
      match ma.get k, mb.get k with
      | some v, some w => some (if keepsA k then v else w)
      | some v, none => some v
      | none, w => w := by
  unfold PairMap.union
  suffices ∀ (l acc : PairMap), l.Sorted → acc.Sorted →
      PairMap.get (l.foldl (fun m p => if ma.has p.1 && keepsA p.1 then m else m.put p.1 p.2) acc) k =
        match l.get k with
        | some w => if ma.has k && keepsA k then acc.get k else some w
        | none => acc.get k by
    rw [this mb ma hb ha]
    unfold PairMap.has
    rcases ma.get k with _ | v <;> rcases mb.get k with _ | w <;> simp
    cases keepsA k <;> simp
  intro l
  induction l with
  | nil => intro acc _ _; simp [PairMap.get_nil]
  | cons p l ih =>
    intro acc hl hacc
    have ⟨hp, hs⟩ := List.pairwise_cons.mp hl
    simp only [List.foldl_cons]
    by_cases hc : (ma.has p.1 && keepsA p.1) = true
    · rw [if_pos hc, ih acc hs hacc, PairMap.get_cons]
      by_cases h : p.1 = k
      · subst h
        rw [PairMap.get_eq_none_of_lt hp]
        simp [hc]
      · simp [h]
    · rw [if_neg hc, ih _ hs (PairMap.put_sorted hacc _ _), PairMap.get_cons, PairMap.get_put]
      by_cases h : p.1 = k
      · subst h
        rw [PairMap.get_eq_none_of_lt hp]
        simp [hc]
      · simp [h]

/-- The map of any pairs is canonical and within STR_VAL. -/
theorem PairMap.ofPairs_sorted (l : List (Key × Value)) : (PairMap.ofPairs l).Sorted := by
  unfold PairMap.ofPairs
  refine List.Pairwise.sublist (List.take_sublist _ _) ?_
  suffices ∀ (l acc : PairMap), acc.Sorted →
      PairMap.Sorted (l.foldl (fun m p => PairMap.put p.1 p.2 m) acc) from this l [] List.Pairwise.nil
  intro l
  induction l with
  | nil => exact fun _ h => h
  | cons p l ih => exact fun acc h => ih _ (PairMap.put_sorted h _ _)

theorem PairMap.length_ofPairs_le (l : List (Key × Value)) : (PairMap.ofPairs l).length ≤ Config.strVal := by
  simp [PairMap.ofPairs, List.length_take]

/-! ### Ends and neighbours -/

/-- The least pair is held and no key is below it (R12). -/
theorem PairMap.least_spec {m : PairMap} (hm : m.Sorted) {p : Key × Value} (h : m.least = some p) :
    p ∈ m ∧ ∀ q ∈ m, p.1 ≤ q.1 := by
  cases m with
  | nil => simp [PairMap.least] at h
  | cons q m =>
    obtain rfl : q = p := by simpa [PairMap.least] using h
    refine ⟨by simp, fun r hr => ?_⟩
    rcases List.mem_cons.mp hr with rfl | hr
    · bv_omega
    · have := (List.pairwise_cons.mp hm).1 r hr; bv_omega

/-- The last pair of a canonical list has the greatest key. -/
theorem PairMap.getLast_spec {m : PairMap} (hm : m.Sorted) {p : Key × Value} (h : m.getLast? = some p) :
    p ∈ m ∧ ∀ q ∈ m, q.1 ≤ p.1 := by
  obtain ⟨l, rfl⟩ := List.getLast?_eq_some_iff.mp h
  refine ⟨by simp, fun q hq => ?_⟩
  have ⟨_, _, hall⟩ := List.pairwise_append.mp hm
  rcases List.mem_append.mp hq with hq | hq
  · have := hall q hq p (by simp); bv_omega
  · obtain rfl := List.mem_singleton.mp hq; bv_omega

/-- The greatest pair is held and no key is above it (R12). -/
theorem PairMap.greatest_spec {m : PairMap} (hm : m.Sorted) {p : Key × Value} (h : m.greatest = some p) :
    p ∈ m ∧ ∀ q ∈ m, q.1 ≤ p.1 := PairMap.getLast_spec hm h

/-- The pair above is the least one with a greater key (R12). -/
theorem PairMap.above_spec {m : PairMap} (hm : m.Sorted) {k : Key} {p : Key × Value} (h : m.above k = some p) :
    p ∈ m ∧ k < p.1 ∧ ∀ q ∈ m, k < q.1 → p.1 ≤ q.1 := by
  induction m with
  | nil => simp [PairMap.above] at h
  | cons q m ih =>
    have ⟨hq, hs⟩ := List.pairwise_cons.mp hm
    unfold PairMap.above at h
    rw [List.find?_cons] at h
    by_cases hlt : k < q.1
    · simp only [hlt, decide_true] at h
      obtain rfl := Option.some.inj h
      refine ⟨by simp, hlt, fun r hr _ => ?_⟩
      rcases List.mem_cons.mp hr with rfl | hr
      · bv_omega
      · have := hq r hr; bv_omega
    · simp only [hlt, decide_false] at h
      obtain ⟨h1, h2, h3⟩ := ih hs h
      refine ⟨by simp [h1], h2, fun r hr hk => ?_⟩
      rcases List.mem_cons.mp hr with rfl | hr
      · exact absurd hk hlt
      · exact h3 r hr hk

theorem PairMap.above_eq_none {m : PairMap} {k : Key} : m.above k = none ↔ ∀ q ∈ m, ¬ k < q.1 := by
  simp [PairMap.above, List.find?_eq_none]

/-- The pair below is the greatest one with a smaller key (R12). -/
theorem PairMap.below_spec {m : PairMap} (hm : m.Sorted) {k : Key} {p : Key × Value} (h : m.below k = some p) :
    p ∈ m ∧ p.1 < k ∧ ∀ q ∈ m, q.1 < k → q.1 ≤ p.1 := by
  obtain ⟨h1, h2⟩ := PairMap.getLast_spec (PairMap.filter_sorted hm _) h
  have ⟨h3, h4⟩ := List.mem_filter.mp h1
  exact ⟨h3, by simpa using h4, fun q hq hk => h2 q (List.mem_filter.mpr ⟨hq, by simpa using hk⟩)⟩

theorem PairMap.below_eq_none {m : PairMap} {k : Key} : m.below k = none ↔ ∀ q ∈ m, ¬ q.1 < k := by
  simp [PairMap.below]

/-! ### Local command memory -/

theorem Memory.read_cons (p : Nat × Slot) (m : Memory) (a : Nat) :
    Memory.read (p :: m) a = if p.1 = a then some p.2 else Memory.read m a := by
  unfold Memory.read
  by_cases h : p.1 = a <;> simp [h]

theorem Memory.mem_write {m : Memory} {a : Nat} {c : Slot} {p : Nat × Slot} (h : p ∈ m.write a c) :
    p = (a, c) ∨ p ∈ m := by
  induction m with
  | nil => simpa [Memory.write] using h
  | cons q m ih =>
    unfold Memory.write at h
    split at h
    · simpa using h
    · split at h
      · simp at h ⊢; tauto
      · rcases List.mem_cons.mp h with h | h
        · simp [h]
        · rcases ih h with h | h <;> simp [h]

/-- A write keeps the canonical form. -/
theorem Memory.write_wf {m : Memory} (hm : Memory.wf m) (a : Nat) (c : Slot) : Memory.wf (m.write a c) := by
  induction m with
  | nil => simp [Memory.write, Memory.wf]
  | cons q m ih =>
    have ⟨hq, hs⟩ := List.pairwise_cons.mp hm
    unfold Memory.write
    split
    · next hlt =>
      refine List.pairwise_cons.mpr ⟨fun p hp => ?_, hm⟩
      rcases List.mem_cons.mp hp with rfl | hp
      · exact hlt
      · have := hq p hp; show a < p.1; omega
    · split
      · next _ heq =>
        refine List.pairwise_cons.mpr ⟨fun p hp => ?_, hs⟩
        have := hq p hp
        show a < p.1
        omega
      · next hnlt hne =>
        refine List.pairwise_cons.mpr ⟨fun p hp => ?_, ih hs⟩
        rcases Memory.mem_write hp with rfl | hp
        · show q.1 < a; omega
        · exact hq p hp

/-- Reading after writing (R251). -/
theorem Memory.read_write (m : Memory) (a : Nat) (c : Slot) (b : Nat) :
    Memory.read (m.write a c) b = if a = b then some c else m.read b := by
  induction m with
  | nil => simp [Memory.write, Memory.read_cons, show Memory.read [] b = none from rfl]
  | cons q m ih =>
    unfold Memory.write
    split
    · simp [Memory.read_cons]
    · split
      · next _ heq => simp only [Memory.read_cons, heq]; split <;> rfl
      · next _ hne =>
        simp only [Memory.read_cons, ih]
        by_cases h : q.1 = b
        · simp [h, show ¬ a = b from fun e => hne (by omega)]
        · simp [h]

end Sys2Proof
end

