-- ==== Sys2Proof/Laws/State.lean ====
section
/-! SUPPORT. One lemma per field per update of the state: what each shared operation leaves unchanged. -/

namespace Sys2Proof.Machine

/-! ### recordLast -/

@[simp] theorem State.recordLast_structs (s : State) (v : Bool) (c : Cause) (k : Key) (x : Value) : (s.recordLast v c k x).structs = s.structs := rfl
@[simp] theorem State.recordLast_ip (s : State) (v : Bool) (c : Cause) (k : Key) (x : Value) : (s.recordLast v c k x).ip = s.ip := rfl
@[simp] theorem State.recordLast_lcm (s : State) (v : Bool) (c : Cause) (k : Key) (x : Value) : (s.recordLast v c k x).lcm = s.lcm := rfl
@[simp] theorem State.recordLast_wait (s : State) (v : Bool) (c : Cause) (k : Key) (x : Value) : (s.recordLast v c k x).wait = s.wait := rfl
@[simp] theorem State.recordLast_fetched (s : State) (v : Bool) (c : Cause) (k : Key) (x : Value) : (s.recordLast v c k x).fetched = s.fetched := rfl
@[simp] theorem State.recordLast_c2s (s : State) (v : Bool) (c : Cause) (k : Key) (x : Value) : (s.recordLast v c k x).c2s = s.c2s := rfl
@[simp] theorem State.recordLast_s2c (s : State) (v : Bool) (c : Cause) (k : Key) (x : Value) : (s.recordLast v c k x).s2c = s.s2c := rfl
@[simp] theorem State.recordLast_pci2sys (s : State) (v : Bool) (c : Cause) (k : Key) (x : Value) : (s.recordLast v c k x).pci2sys = s.pci2sys := rfl
@[simp] theorem State.recordLast_sys2pci (s : State) (v : Bool) (c : Cause) (k : Key) (x : Value) : (s.recordLast v c k x).sys2pci = s.sys2pci := rfl
@[simp] theorem State.recordLast_drFlag (s : State) (v : Bool) (c : Cause) (k : Key) (x : Value) : (s.recordLast v c k x).drFlag = s.drFlag := rfl
@[simp] theorem State.recordLast_ovfFlag (s : State) (v : Bool) (c : Cause) (k : Key) (x : Value) : (s.recordLast v c k x).ovfFlag = s.ovfFlag := rfl
@[simp] theorem State.recordLast_owr (s : State) (v : Bool) (c : Cause) (k : Key) (x : Value) : (s.recordLast v c k x).owr = s.owr := rfl
@[simp] theorem State.recordLast_keyW (s : State) (v : Bool) (c : Cause) (k : Key) (x : Value) : (s.recordLast v c k x).keyW = s.keyW := rfl
@[simp] theorem State.recordLast_valueW (s : State) (v : Bool) (c : Cause) (k : Key) (x : Value) : (s.recordLast v c k x).valueW = s.valueW := rfl
@[simp] theorem State.recordLast_tagL (s : State) (v : Bool) (c : Cause) (k : Key) (x : Value) : (s.recordLast v c k x).tagL = s.tagL := rfl
@[simp] theorem State.recordLast_lcmwAdr (s : State) (v : Bool) (c : Cause) (k : Key) (x : Value) : (s.recordLast v c k x).lcmwAdr = s.lcmwAdr := rfl
@[simp] theorem State.recordLast_lcmrAdr (s : State) (v : Bool) (c : Cause) (k : Key) (x : Value) : (s.recordLast v c k x).lcmrAdr = s.lcmrAdr := rfl
@[simp] theorem State.recordLast_lsmwAdr (s : State) (v : Bool) (c : Cause) (k : Key) (x : Value) : (s.recordLast v c k x).lsmwAdr = s.lsmwAdr := rfl
@[simp] theorem State.recordLast_lsmrAdr (s : State) (v : Bool) (c : Cause) (k : Key) (x : Value) : (s.recordLast v c k x).lsmrAdr = s.lsmrAdr := rfl
@[simp] theorem State.recordLast_lmdW (s : State) (v : Bool) (c : Cause) (k : Key) (x : Value) : (s.recordLast v c k x).lmdW = s.lmdW := rfl
@[simp] theorem State.recordLast_control0 (s : State) (v : Bool) (c : Cause) (k : Key) (x : Value) : (s.recordLast v c k x).control0 = s.control0 := rfl
@[simp] theorem State.recordLast_tsc (s : State) (v : Bool) (c : Cause) (k : Key) (x : Value) : (s.recordLast v c k x).tsc = s.tsc := rfl
@[simp] theorem State.recordLast_dmaRead (s : State) (v : Bool) (c : Cause) (k : Key) (x : Value) : (s.recordLast v c k x).dmaRead = s.dmaRead := rfl
@[simp] theorem State.recordLast_rst (s : State) (v : Bool) (c : Cause) (k : Key) (x : Value) : (s.recordLast v c k x).rst = s.rst := rfl
@[simp] theorem State.recordLast_params (s : State) (v : Bool) (c : Cause) (k : Key) (x : Value) : (s.recordLast v c k x).params = s.params := rfl
@[simp] theorem State.recordLast_draws (s : State) (v : Bool) (c : Cause) (k : Key) (x : Value) : (s.recordLast v c k x).draws = s.draws := rfl
@[simp] theorem State.recordLast_turns (s : State) (v : Bool) (c : Cause) (k : Key) (x : Value) : (s.recordLast v c k x).turns = s.turns := rfl
@[simp] theorem State.recordLast_insAnswers (s : State) (v : Bool) (c : Cause) (k : Key) (x : Value) : (s.recordLast v c k x).insAnswers = s.insAnswers := rfl
@[simp] theorem State.recordLast_setopAnswers (s : State) (v : Bool) (c : Cause) (k : Key) (x : Value) : (s.recordLast v c k x).setopAnswers = s.setopAnswers := rfl
@[simp] theorem State.recordLast_issuer (s : State) (v : Bool) (c : Cause) (k : Key) (x : Value) : (s.recordLast v c k x).issuer = s.issuer := rfl

/-! ### pushResult -/

@[simp] theorem State.pushResult_structs (s : State) (e : ResultEntry) : (s.pushResult e).structs = s.structs := by unfold State.pushResult; split <;> rfl
@[simp] theorem State.pushResult_ip (s : State) (e : ResultEntry) : (s.pushResult e).ip = s.ip := by unfold State.pushResult; split <;> rfl
@[simp] theorem State.pushResult_lcm (s : State) (e : ResultEntry) : (s.pushResult e).lcm = s.lcm := by unfold State.pushResult; split <;> rfl
@[simp] theorem State.pushResult_wait (s : State) (e : ResultEntry) : (s.pushResult e).wait = s.wait := by unfold State.pushResult; split <;> rfl
@[simp] theorem State.pushResult_fetched (s : State) (e : ResultEntry) : (s.pushResult e).fetched = s.fetched := by unfold State.pushResult; split <;> rfl
@[simp] theorem State.pushResult_last (s : State) (e : ResultEntry) : (s.pushResult e).last = s.last := by unfold State.pushResult; split <;> rfl
@[simp] theorem State.pushResult_c2s (s : State) (e : ResultEntry) : (s.pushResult e).c2s = s.c2s := by unfold State.pushResult; split <;> rfl
@[simp] theorem State.pushResult_pci2sys (s : State) (e : ResultEntry) : (s.pushResult e).pci2sys = s.pci2sys := by unfold State.pushResult; split <;> rfl
@[simp] theorem State.pushResult_sys2pci (s : State) (e : ResultEntry) : (s.pushResult e).sys2pci = s.sys2pci := by unfold State.pushResult; split <;> rfl
@[simp] theorem State.pushResult_drFlag (s : State) (e : ResultEntry) : (s.pushResult e).drFlag = s.drFlag := by unfold State.pushResult; split <;> rfl
@[simp] theorem State.pushResult_ovfFlag (s : State) (e : ResultEntry) : (s.pushResult e).ovfFlag = s.ovfFlag := by unfold State.pushResult; split <;> rfl
@[simp] theorem State.pushResult_keyW (s : State) (e : ResultEntry) : (s.pushResult e).keyW = s.keyW := by unfold State.pushResult; split <;> rfl
@[simp] theorem State.pushResult_valueW (s : State) (e : ResultEntry) : (s.pushResult e).valueW = s.valueW := by unfold State.pushResult; split <;> rfl
@[simp] theorem State.pushResult_tagL (s : State) (e : ResultEntry) : (s.pushResult e).tagL = s.tagL := by unfold State.pushResult; split <;> rfl
@[simp] theorem State.pushResult_lcmwAdr (s : State) (e : ResultEntry) : (s.pushResult e).lcmwAdr = s.lcmwAdr := by unfold State.pushResult; split <;> rfl
@[simp] theorem State.pushResult_lcmrAdr (s : State) (e : ResultEntry) : (s.pushResult e).lcmrAdr = s.lcmrAdr := by unfold State.pushResult; split <;> rfl
@[simp] theorem State.pushResult_lsmwAdr (s : State) (e : ResultEntry) : (s.pushResult e).lsmwAdr = s.lsmwAdr := by unfold State.pushResult; split <;> rfl
@[simp] theorem State.pushResult_lsmrAdr (s : State) (e : ResultEntry) : (s.pushResult e).lsmrAdr = s.lsmrAdr := by unfold State.pushResult; split <;> rfl
@[simp] theorem State.pushResult_lmdW (s : State) (e : ResultEntry) : (s.pushResult e).lmdW = s.lmdW := by unfold State.pushResult; split <;> rfl
@[simp] theorem State.pushResult_control0 (s : State) (e : ResultEntry) : (s.pushResult e).control0 = s.control0 := by unfold State.pushResult; split <;> rfl
@[simp] theorem State.pushResult_tsc (s : State) (e : ResultEntry) : (s.pushResult e).tsc = s.tsc := by unfold State.pushResult; split <;> rfl
@[simp] theorem State.pushResult_dmaRead (s : State) (e : ResultEntry) : (s.pushResult e).dmaRead = s.dmaRead := by unfold State.pushResult; split <;> rfl
@[simp] theorem State.pushResult_rst (s : State) (e : ResultEntry) : (s.pushResult e).rst = s.rst := by unfold State.pushResult; split <;> rfl
@[simp] theorem State.pushResult_params (s : State) (e : ResultEntry) : (s.pushResult e).params = s.params := by unfold State.pushResult; split <;> rfl
@[simp] theorem State.pushResult_draws (s : State) (e : ResultEntry) : (s.pushResult e).draws = s.draws := by unfold State.pushResult; split <;> rfl
@[simp] theorem State.pushResult_turns (s : State) (e : ResultEntry) : (s.pushResult e).turns = s.turns := by unfold State.pushResult; split <;> rfl
@[simp] theorem State.pushResult_insAnswers (s : State) (e : ResultEntry) : (s.pushResult e).insAnswers = s.insAnswers := by unfold State.pushResult; split <;> rfl
@[simp] theorem State.pushResult_setopAnswers (s : State) (e : ResultEntry) : (s.pushResult e).setopAnswers = s.setopAnswers := by unfold State.pushResult; split <;> rfl
@[simp] theorem State.pushResult_issuer (s : State) (e : ResultEntry) : (s.pushResult e).issuer = s.issuer := by unfold State.pushResult; split <;> rfl

/-! ### signalDataReady -/

@[simp] theorem State.signalDataReady_structs (s : State) : s.signalDataReady.structs = s.structs := by unfold State.signalDataReady; split <;> rfl
@[simp] theorem State.signalDataReady_ip (s : State) : s.signalDataReady.ip = s.ip := by unfold State.signalDataReady; split <;> rfl
@[simp] theorem State.signalDataReady_lcm (s : State) : s.signalDataReady.lcm = s.lcm := by unfold State.signalDataReady; split <;> rfl
@[simp] theorem State.signalDataReady_wait (s : State) : s.signalDataReady.wait = s.wait := by unfold State.signalDataReady; split <;> rfl
@[simp] theorem State.signalDataReady_fetched (s : State) : s.signalDataReady.fetched = s.fetched := by unfold State.signalDataReady; split <;> rfl
@[simp] theorem State.signalDataReady_last (s : State) : s.signalDataReady.last = s.last := by unfold State.signalDataReady; split <;> rfl
@[simp] theorem State.signalDataReady_c2s (s : State) : s.signalDataReady.c2s = s.c2s := by unfold State.signalDataReady; split <;> rfl
@[simp] theorem State.signalDataReady_s2c (s : State) : s.signalDataReady.s2c = s.s2c := by unfold State.signalDataReady; split <;> rfl
@[simp] theorem State.signalDataReady_pci2sys (s : State) : s.signalDataReady.pci2sys = s.pci2sys := by unfold State.signalDataReady; split <;> rfl
@[simp] theorem State.signalDataReady_sys2pci (s : State) : s.signalDataReady.sys2pci = s.sys2pci := by unfold State.signalDataReady; split <;> rfl
@[simp] theorem State.signalDataReady_ovfFlag (s : State) : s.signalDataReady.ovfFlag = s.ovfFlag := by unfold State.signalDataReady; split <;> rfl
@[simp] theorem State.signalDataReady_owr (s : State) : s.signalDataReady.owr = s.owr := by unfold State.signalDataReady; split <;> rfl
@[simp] theorem State.signalDataReady_keyW (s : State) : s.signalDataReady.keyW = s.keyW := by unfold State.signalDataReady; split <;> rfl
@[simp] theorem State.signalDataReady_valueW (s : State) : s.signalDataReady.valueW = s.valueW := by unfold State.signalDataReady; split <;> rfl
@[simp] theorem State.signalDataReady_tagL (s : State) : s.signalDataReady.tagL = s.tagL := by unfold State.signalDataReady; split <;> rfl
@[simp] theorem State.signalDataReady_lcmwAdr (s : State) : s.signalDataReady.lcmwAdr = s.lcmwAdr := by unfold State.signalDataReady; split <;> rfl
@[simp] theorem State.signalDataReady_lcmrAdr (s : State) : s.signalDataReady.lcmrAdr = s.lcmrAdr := by unfold State.signalDataReady; split <;> rfl
@[simp] theorem State.signalDataReady_lsmwAdr (s : State) : s.signalDataReady.lsmwAdr = s.lsmwAdr := by unfold State.signalDataReady; split <;> rfl
@[simp] theorem State.signalDataReady_lsmrAdr (s : State) : s.signalDataReady.lsmrAdr = s.lsmrAdr := by unfold State.signalDataReady; split <;> rfl
@[simp] theorem State.signalDataReady_lmdW (s : State) : s.signalDataReady.lmdW = s.lmdW := by unfold State.signalDataReady; split <;> rfl
@[simp] theorem State.signalDataReady_control0 (s : State) : s.signalDataReady.control0 = s.control0 := by unfold State.signalDataReady; split <;> rfl
@[simp] theorem State.signalDataReady_tsc (s : State) : s.signalDataReady.tsc = s.tsc := by unfold State.signalDataReady; split <;> rfl
@[simp] theorem State.signalDataReady_dmaRead (s : State) : s.signalDataReady.dmaRead = s.dmaRead := by unfold State.signalDataReady; split <;> rfl
@[simp] theorem State.signalDataReady_rst (s : State) : s.signalDataReady.rst = s.rst := by unfold State.signalDataReady; split <;> rfl
@[simp] theorem State.signalDataReady_params (s : State) : s.signalDataReady.params = s.params := by unfold State.signalDataReady; split <;> rfl
@[simp] theorem State.signalDataReady_draws (s : State) : s.signalDataReady.draws = s.draws := by unfold State.signalDataReady; split <;> rfl
@[simp] theorem State.signalDataReady_turns (s : State) : s.signalDataReady.turns = s.turns := by unfold State.signalDataReady; split <;> rfl
@[simp] theorem State.signalDataReady_insAnswers (s : State) : s.signalDataReady.insAnswers = s.insAnswers := by unfold State.signalDataReady; split <;> rfl
@[simp] theorem State.signalDataReady_setopAnswers (s : State) : s.signalDataReady.setopAnswers = s.setopAnswers := by unfold State.signalDataReady; split <;> rfl
@[simp] theorem State.signalDataReady_issuer (s : State) : s.signalDataReady.issuer = s.issuer := by unfold State.signalDataReady; split <;> rfl

/-! ### deliver -/

@[simp] theorem State.deliver_structs (s : State) (q v : Bool) (c : Cause) (k : Option Key) (x : Option Value) : (s.deliver q v c k x).structs = s.structs := by cases q <;> simp [State.deliver]
@[simp] theorem State.deliver_ip (s : State) (q v : Bool) (c : Cause) (k : Option Key) (x : Option Value) : (s.deliver q v c k x).ip = s.ip := by cases q <;> simp [State.deliver]
@[simp] theorem State.deliver_lcm (s : State) (q v : Bool) (c : Cause) (k : Option Key) (x : Option Value) : (s.deliver q v c k x).lcm = s.lcm := by cases q <;> simp [State.deliver]
@[simp] theorem State.deliver_wait (s : State) (q v : Bool) (c : Cause) (k : Option Key) (x : Option Value) : (s.deliver q v c k x).wait = s.wait := by cases q <;> simp [State.deliver]
@[simp] theorem State.deliver_fetched (s : State) (q v : Bool) (c : Cause) (k : Option Key) (x : Option Value) : (s.deliver q v c k x).fetched = s.fetched := by cases q <;> simp [State.deliver]
@[simp] theorem State.deliver_c2s (s : State) (q v : Bool) (c : Cause) (k : Option Key) (x : Option Value) : (s.deliver q v c k x).c2s = s.c2s := by cases q <;> simp [State.deliver]
@[simp] theorem State.deliver_pci2sys (s : State) (q v : Bool) (c : Cause) (k : Option Key) (x : Option Value) : (s.deliver q v c k x).pci2sys = s.pci2sys := by cases q <;> simp [State.deliver]
@[simp] theorem State.deliver_sys2pci (s : State) (q v : Bool) (c : Cause) (k : Option Key) (x : Option Value) : (s.deliver q v c k x).sys2pci = s.sys2pci := by cases q <;> simp [State.deliver]
@[simp] theorem State.deliver_ovfFlag (s : State) (q v : Bool) (c : Cause) (k : Option Key) (x : Option Value) : (s.deliver q v c k x).ovfFlag = s.ovfFlag := by cases q <;> simp [State.deliver]
@[simp] theorem State.deliver_keyW (s : State) (q v : Bool) (c : Cause) (k : Option Key) (x : Option Value) : (s.deliver q v c k x).keyW = s.keyW := by cases q <;> simp [State.deliver]
@[simp] theorem State.deliver_valueW (s : State) (q v : Bool) (c : Cause) (k : Option Key) (x : Option Value) : (s.deliver q v c k x).valueW = s.valueW := by cases q <;> simp [State.deliver]
@[simp] theorem State.deliver_tagL (s : State) (q v : Bool) (c : Cause) (k : Option Key) (x : Option Value) : (s.deliver q v c k x).tagL = s.tagL := by cases q <;> simp [State.deliver]
@[simp] theorem State.deliver_lcmwAdr (s : State) (q v : Bool) (c : Cause) (k : Option Key) (x : Option Value) : (s.deliver q v c k x).lcmwAdr = s.lcmwAdr := by cases q <;> simp [State.deliver]
@[simp] theorem State.deliver_lcmrAdr (s : State) (q v : Bool) (c : Cause) (k : Option Key) (x : Option Value) : (s.deliver q v c k x).lcmrAdr = s.lcmrAdr := by cases q <;> simp [State.deliver]
@[simp] theorem State.deliver_lsmwAdr (s : State) (q v : Bool) (c : Cause) (k : Option Key) (x : Option Value) : (s.deliver q v c k x).lsmwAdr = s.lsmwAdr := by cases q <;> simp [State.deliver]
@[simp] theorem State.deliver_lsmrAdr (s : State) (q v : Bool) (c : Cause) (k : Option Key) (x : Option Value) : (s.deliver q v c k x).lsmrAdr = s.lsmrAdr := by cases q <;> simp [State.deliver]
@[simp] theorem State.deliver_lmdW (s : State) (q v : Bool) (c : Cause) (k : Option Key) (x : Option Value) : (s.deliver q v c k x).lmdW = s.lmdW := by cases q <;> simp [State.deliver]
@[simp] theorem State.deliver_control0 (s : State) (q v : Bool) (c : Cause) (k : Option Key) (x : Option Value) : (s.deliver q v c k x).control0 = s.control0 := by cases q <;> simp [State.deliver]
@[simp] theorem State.deliver_tsc (s : State) (q v : Bool) (c : Cause) (k : Option Key) (x : Option Value) : (s.deliver q v c k x).tsc = s.tsc := by cases q <;> simp [State.deliver]
@[simp] theorem State.deliver_dmaRead (s : State) (q v : Bool) (c : Cause) (k : Option Key) (x : Option Value) : (s.deliver q v c k x).dmaRead = s.dmaRead := by cases q <;> simp [State.deliver]
@[simp] theorem State.deliver_rst (s : State) (q v : Bool) (c : Cause) (k : Option Key) (x : Option Value) : (s.deliver q v c k x).rst = s.rst := by cases q <;> simp [State.deliver]
@[simp] theorem State.deliver_params (s : State) (q v : Bool) (c : Cause) (k : Option Key) (x : Option Value) : (s.deliver q v c k x).params = s.params := by cases q <;> simp [State.deliver]
@[simp] theorem State.deliver_draws (s : State) (q v : Bool) (c : Cause) (k : Option Key) (x : Option Value) : (s.deliver q v c k x).draws = s.draws := by cases q <;> simp [State.deliver]
@[simp] theorem State.deliver_turns (s : State) (q v : Bool) (c : Cause) (k : Option Key) (x : Option Value) : (s.deliver q v c k x).turns = s.turns := by cases q <;> simp [State.deliver]
@[simp] theorem State.deliver_insAnswers (s : State) (q v : Bool) (c : Cause) (k : Option Key) (x : Option Value) : (s.deliver q v c k x).insAnswers = s.insAnswers := by cases q <;> simp [State.deliver]
@[simp] theorem State.deliver_setopAnswers (s : State) (q v : Bool) (c : Cause) (k : Option Key) (x : Option Value) : (s.deliver q v c k x).setopAnswers = s.setopAnswers := by cases q <;> simp [State.deliver]
@[simp] theorem State.deliver_issuer (s : State) (q v : Bool) (c : Cause) (k : Option Key) (x : Option Value) : (s.deliver q v c k x).issuer = s.issuer := by cases q <;> simp [State.deliver]

/-! ### raiseError -/

@[simp] theorem State.raiseError_structs (s : State) (q : Bool) (c : Cause) : (s.raiseError q c).structs = s.structs := by simp [State.raiseError]
@[simp] theorem State.raiseError_ip (s : State) (q : Bool) (c : Cause) : (s.raiseError q c).ip = s.ip := by simp [State.raiseError]
@[simp] theorem State.raiseError_lcm (s : State) (q : Bool) (c : Cause) : (s.raiseError q c).lcm = s.lcm := by simp [State.raiseError]
@[simp] theorem State.raiseError_wait (s : State) (q : Bool) (c : Cause) : (s.raiseError q c).wait = s.wait := by simp [State.raiseError]
@[simp] theorem State.raiseError_fetched (s : State) (q : Bool) (c : Cause) : (s.raiseError q c).fetched = s.fetched := by simp [State.raiseError]
@[simp] theorem State.raiseError_c2s (s : State) (q : Bool) (c : Cause) : (s.raiseError q c).c2s = s.c2s := by simp [State.raiseError]
@[simp] theorem State.raiseError_pci2sys (s : State) (q : Bool) (c : Cause) : (s.raiseError q c).pci2sys = s.pci2sys := by simp [State.raiseError]
@[simp] theorem State.raiseError_sys2pci (s : State) (q : Bool) (c : Cause) : (s.raiseError q c).sys2pci = s.sys2pci := by simp [State.raiseError]
@[simp] theorem State.raiseError_ovfFlag (s : State) (q : Bool) (c : Cause) : (s.raiseError q c).ovfFlag = s.ovfFlag := by simp [State.raiseError]
@[simp] theorem State.raiseError_keyW (s : State) (q : Bool) (c : Cause) : (s.raiseError q c).keyW = s.keyW := by simp [State.raiseError]
@[simp] theorem State.raiseError_valueW (s : State) (q : Bool) (c : Cause) : (s.raiseError q c).valueW = s.valueW := by simp [State.raiseError]
@[simp] theorem State.raiseError_tagL (s : State) (q : Bool) (c : Cause) : (s.raiseError q c).tagL = s.tagL := by simp [State.raiseError]
@[simp] theorem State.raiseError_lcmwAdr (s : State) (q : Bool) (c : Cause) : (s.raiseError q c).lcmwAdr = s.lcmwAdr := by simp [State.raiseError]
@[simp] theorem State.raiseError_lcmrAdr (s : State) (q : Bool) (c : Cause) : (s.raiseError q c).lcmrAdr = s.lcmrAdr := by simp [State.raiseError]
@[simp] theorem State.raiseError_lsmwAdr (s : State) (q : Bool) (c : Cause) : (s.raiseError q c).lsmwAdr = s.lsmwAdr := by simp [State.raiseError]
@[simp] theorem State.raiseError_lsmrAdr (s : State) (q : Bool) (c : Cause) : (s.raiseError q c).lsmrAdr = s.lsmrAdr := by simp [State.raiseError]
@[simp] theorem State.raiseError_lmdW (s : State) (q : Bool) (c : Cause) : (s.raiseError q c).lmdW = s.lmdW := by simp [State.raiseError]
@[simp] theorem State.raiseError_control0 (s : State) (q : Bool) (c : Cause) : (s.raiseError q c).control0 = s.control0 := by simp [State.raiseError]
@[simp] theorem State.raiseError_tsc (s : State) (q : Bool) (c : Cause) : (s.raiseError q c).tsc = s.tsc := by simp [State.raiseError]
@[simp] theorem State.raiseError_dmaRead (s : State) (q : Bool) (c : Cause) : (s.raiseError q c).dmaRead = s.dmaRead := by simp [State.raiseError]
@[simp] theorem State.raiseError_rst (s : State) (q : Bool) (c : Cause) : (s.raiseError q c).rst = s.rst := by simp [State.raiseError]
@[simp] theorem State.raiseError_params (s : State) (q : Bool) (c : Cause) : (s.raiseError q c).params = s.params := by simp [State.raiseError]
@[simp] theorem State.raiseError_draws (s : State) (q : Bool) (c : Cause) : (s.raiseError q c).draws = s.draws := by simp [State.raiseError]
@[simp] theorem State.raiseError_turns (s : State) (q : Bool) (c : Cause) : (s.raiseError q c).turns = s.turns := by simp [State.raiseError]
@[simp] theorem State.raiseError_insAnswers (s : State) (q : Bool) (c : Cause) : (s.raiseError q c).insAnswers = s.insAnswers := by simp [State.raiseError]
@[simp] theorem State.raiseError_setopAnswers (s : State) (q : Bool) (c : Cause) : (s.raiseError q c).setopAnswers = s.setopAnswers := by simp [State.raiseError]
@[simp] theorem State.raiseError_issuer (s : State) (q : Bool) (c : Cause) : (s.raiseError q c).issuer = s.issuer := by simp [State.raiseError]

/-! ### setPower -/

@[simp] theorem State.setPower_structs (s : State) (n : Nat) : (s.setPower n).structs = s.structs := rfl
@[simp] theorem State.setPower_ip (s : State) (n : Nat) : (s.setPower n).ip = s.ip := rfl
@[simp] theorem State.setPower_lcm (s : State) (n : Nat) : (s.setPower n).lcm = s.lcm := rfl
@[simp] theorem State.setPower_wait (s : State) (n : Nat) : (s.setPower n).wait = s.wait := rfl
@[simp] theorem State.setPower_fetched (s : State) (n : Nat) : (s.setPower n).fetched = s.fetched := rfl
@[simp] theorem State.setPower_c2s (s : State) (n : Nat) : (s.setPower n).c2s = s.c2s := rfl
@[simp] theorem State.setPower_s2c (s : State) (n : Nat) : (s.setPower n).s2c = s.s2c := rfl
@[simp] theorem State.setPower_pci2sys (s : State) (n : Nat) : (s.setPower n).pci2sys = s.pci2sys := rfl
@[simp] theorem State.setPower_sys2pci (s : State) (n : Nat) : (s.setPower n).sys2pci = s.sys2pci := rfl
@[simp] theorem State.setPower_drFlag (s : State) (n : Nat) : (s.setPower n).drFlag = s.drFlag := rfl
@[simp] theorem State.setPower_ovfFlag (s : State) (n : Nat) : (s.setPower n).ovfFlag = s.ovfFlag := rfl
@[simp] theorem State.setPower_owr (s : State) (n : Nat) : (s.setPower n).owr = s.owr := rfl
@[simp] theorem State.setPower_keyW (s : State) (n : Nat) : (s.setPower n).keyW = s.keyW := rfl
@[simp] theorem State.setPower_valueW (s : State) (n : Nat) : (s.setPower n).valueW = s.valueW := rfl
@[simp] theorem State.setPower_tagL (s : State) (n : Nat) : (s.setPower n).tagL = s.tagL := rfl
@[simp] theorem State.setPower_lcmwAdr (s : State) (n : Nat) : (s.setPower n).lcmwAdr = s.lcmwAdr := rfl
@[simp] theorem State.setPower_lcmrAdr (s : State) (n : Nat) : (s.setPower n).lcmrAdr = s.lcmrAdr := rfl
@[simp] theorem State.setPower_lsmwAdr (s : State) (n : Nat) : (s.setPower n).lsmwAdr = s.lsmwAdr := rfl
@[simp] theorem State.setPower_lsmrAdr (s : State) (n : Nat) : (s.setPower n).lsmrAdr = s.lsmrAdr := rfl
@[simp] theorem State.setPower_lmdW (s : State) (n : Nat) : (s.setPower n).lmdW = s.lmdW := rfl
@[simp] theorem State.setPower_control0 (s : State) (n : Nat) : (s.setPower n).control0 = s.control0 := rfl
@[simp] theorem State.setPower_tsc (s : State) (n : Nat) : (s.setPower n).tsc = s.tsc := rfl
@[simp] theorem State.setPower_dmaRead (s : State) (n : Nat) : (s.setPower n).dmaRead = s.dmaRead := rfl
@[simp] theorem State.setPower_rst (s : State) (n : Nat) : (s.setPower n).rst = s.rst := rfl
@[simp] theorem State.setPower_params (s : State) (n : Nat) : (s.setPower n).params = s.params := rfl
@[simp] theorem State.setPower_draws (s : State) (n : Nat) : (s.setPower n).draws = s.draws := rfl
@[simp] theorem State.setPower_turns (s : State) (n : Nat) : (s.setPower n).turns = s.turns := rfl
@[simp] theorem State.setPower_insAnswers (s : State) (n : Nat) : (s.setPower n).insAnswers = s.insAnswers := rfl
@[simp] theorem State.setPower_setopAnswers (s : State) (n : Nat) : (s.setPower n).setopAnswers = s.setopAnswers := rfl
@[simp] theorem State.setPower_issuer (s : State) (n : Nat) : (s.setPower n).issuer = s.issuer := rfl

/-! ### setStructure -/

@[simp] theorem State.setStructure_ip (s : State) (n : StrNo) (m : Option PairMap) : (s.setStructure n m).ip = s.ip := by unfold State.setStructure; split <;> rfl
@[simp] theorem State.setStructure_lcm (s : State) (n : StrNo) (m : Option PairMap) : (s.setStructure n m).lcm = s.lcm := by unfold State.setStructure; split <;> rfl
@[simp] theorem State.setStructure_wait (s : State) (n : StrNo) (m : Option PairMap) : (s.setStructure n m).wait = s.wait := by unfold State.setStructure; split <;> rfl
@[simp] theorem State.setStructure_fetched (s : State) (n : StrNo) (m : Option PairMap) : (s.setStructure n m).fetched = s.fetched := by unfold State.setStructure; split <;> rfl
@[simp] theorem State.setStructure_last (s : State) (n : StrNo) (m : Option PairMap) : (s.setStructure n m).last = s.last := by unfold State.setStructure; split <;> rfl
@[simp] theorem State.setStructure_c2s (s : State) (n : StrNo) (m : Option PairMap) : (s.setStructure n m).c2s = s.c2s := by unfold State.setStructure; split <;> rfl
@[simp] theorem State.setStructure_s2c (s : State) (n : StrNo) (m : Option PairMap) : (s.setStructure n m).s2c = s.s2c := by unfold State.setStructure; split <;> rfl
@[simp] theorem State.setStructure_pci2sys (s : State) (n : StrNo) (m : Option PairMap) : (s.setStructure n m).pci2sys = s.pci2sys := by unfold State.setStructure; split <;> rfl
@[simp] theorem State.setStructure_sys2pci (s : State) (n : StrNo) (m : Option PairMap) : (s.setStructure n m).sys2pci = s.sys2pci := by unfold State.setStructure; split <;> rfl
@[simp] theorem State.setStructure_drFlag (s : State) (n : StrNo) (m : Option PairMap) : (s.setStructure n m).drFlag = s.drFlag := by unfold State.setStructure; split <;> rfl
@[simp] theorem State.setStructure_ovfFlag (s : State) (n : StrNo) (m : Option PairMap) : (s.setStructure n m).ovfFlag = s.ovfFlag := by unfold State.setStructure; split <;> rfl
@[simp] theorem State.setStructure_owr (s : State) (n : StrNo) (m : Option PairMap) : (s.setStructure n m).owr = s.owr := by unfold State.setStructure; split <;> rfl
@[simp] theorem State.setStructure_keyW (s : State) (n : StrNo) (m : Option PairMap) : (s.setStructure n m).keyW = s.keyW := by unfold State.setStructure; split <;> rfl
@[simp] theorem State.setStructure_valueW (s : State) (n : StrNo) (m : Option PairMap) : (s.setStructure n m).valueW = s.valueW := by unfold State.setStructure; split <;> rfl
@[simp] theorem State.setStructure_tagL (s : State) (n : StrNo) (m : Option PairMap) : (s.setStructure n m).tagL = s.tagL := by unfold State.setStructure; split <;> rfl
@[simp] theorem State.setStructure_lcmwAdr (s : State) (n : StrNo) (m : Option PairMap) : (s.setStructure n m).lcmwAdr = s.lcmwAdr := by unfold State.setStructure; split <;> rfl
@[simp] theorem State.setStructure_lcmrAdr (s : State) (n : StrNo) (m : Option PairMap) : (s.setStructure n m).lcmrAdr = s.lcmrAdr := by unfold State.setStructure; split <;> rfl
@[simp] theorem State.setStructure_lsmwAdr (s : State) (n : StrNo) (m : Option PairMap) : (s.setStructure n m).lsmwAdr = s.lsmwAdr := by unfold State.setStructure; split <;> rfl
@[simp] theorem State.setStructure_lsmrAdr (s : State) (n : StrNo) (m : Option PairMap) : (s.setStructure n m).lsmrAdr = s.lsmrAdr := by unfold State.setStructure; split <;> rfl
@[simp] theorem State.setStructure_lmdW (s : State) (n : StrNo) (m : Option PairMap) : (s.setStructure n m).lmdW = s.lmdW := by unfold State.setStructure; split <;> rfl
@[simp] theorem State.setStructure_control0 (s : State) (n : StrNo) (m : Option PairMap) : (s.setStructure n m).control0 = s.control0 := by unfold State.setStructure; split <;> rfl
@[simp] theorem State.setStructure_tsc (s : State) (n : StrNo) (m : Option PairMap) : (s.setStructure n m).tsc = s.tsc := by unfold State.setStructure; split <;> rfl
@[simp] theorem State.setStructure_dmaRead (s : State) (n : StrNo) (m : Option PairMap) : (s.setStructure n m).dmaRead = s.dmaRead := by unfold State.setStructure; split <;> rfl
@[simp] theorem State.setStructure_rst (s : State) (n : StrNo) (m : Option PairMap) : (s.setStructure n m).rst = s.rst := by unfold State.setStructure; split <;> rfl
@[simp] theorem State.setStructure_params (s : State) (n : StrNo) (m : Option PairMap) : (s.setStructure n m).params = s.params := by unfold State.setStructure; split <;> rfl
@[simp] theorem State.setStructure_draws (s : State) (n : StrNo) (m : Option PairMap) : (s.setStructure n m).draws = s.draws := by unfold State.setStructure; split <;> rfl
@[simp] theorem State.setStructure_turns (s : State) (n : StrNo) (m : Option PairMap) : (s.setStructure n m).turns = s.turns := by unfold State.setStructure; split <;> rfl
@[simp] theorem State.setStructure_insAnswers (s : State) (n : StrNo) (m : Option PairMap) : (s.setStructure n m).insAnswers = s.insAnswers := by unfold State.setStructure; split <;> rfl
@[simp] theorem State.setStructure_setopAnswers (s : State) (n : StrNo) (m : Option PairMap) : (s.setStructure n m).setopAnswers = s.setopAnswers := by unfold State.setStructure; split <;> rfl
@[simp] theorem State.setStructure_issuer (s : State) (n : StrNo) (m : Option PairMap) : (s.setStructure n m).issuer = s.issuer := by unfold State.setStructure; split <;> rfl

/-! ### storeMap -/

@[simp] theorem State.storeMap_ip (s : State) (n : StrNo) (m : PairMap) : (s.storeMap n m).ip = s.ip := by simp [State.storeMap]
@[simp] theorem State.storeMap_lcm (s : State) (n : StrNo) (m : PairMap) : (s.storeMap n m).lcm = s.lcm := by simp [State.storeMap]
@[simp] theorem State.storeMap_wait (s : State) (n : StrNo) (m : PairMap) : (s.storeMap n m).wait = s.wait := by simp [State.storeMap]
@[simp] theorem State.storeMap_fetched (s : State) (n : StrNo) (m : PairMap) : (s.storeMap n m).fetched = s.fetched := by simp [State.storeMap]
@[simp] theorem State.storeMap_last (s : State) (n : StrNo) (m : PairMap) : (s.storeMap n m).last = s.last := by simp [State.storeMap]
@[simp] theorem State.storeMap_c2s (s : State) (n : StrNo) (m : PairMap) : (s.storeMap n m).c2s = s.c2s := by simp [State.storeMap]
@[simp] theorem State.storeMap_s2c (s : State) (n : StrNo) (m : PairMap) : (s.storeMap n m).s2c = s.s2c := by simp [State.storeMap]
@[simp] theorem State.storeMap_pci2sys (s : State) (n : StrNo) (m : PairMap) : (s.storeMap n m).pci2sys = s.pci2sys := by simp [State.storeMap]
@[simp] theorem State.storeMap_sys2pci (s : State) (n : StrNo) (m : PairMap) : (s.storeMap n m).sys2pci = s.sys2pci := by simp [State.storeMap]
@[simp] theorem State.storeMap_drFlag (s : State) (n : StrNo) (m : PairMap) : (s.storeMap n m).drFlag = s.drFlag := by simp [State.storeMap]
@[simp] theorem State.storeMap_ovfFlag (s : State) (n : StrNo) (m : PairMap) : (s.storeMap n m).ovfFlag = s.ovfFlag := by simp [State.storeMap]
@[simp] theorem State.storeMap_owr (s : State) (n : StrNo) (m : PairMap) : (s.storeMap n m).owr = s.owr := by simp [State.storeMap]
@[simp] theorem State.storeMap_keyW (s : State) (n : StrNo) (m : PairMap) : (s.storeMap n m).keyW = s.keyW := by simp [State.storeMap]
@[simp] theorem State.storeMap_valueW (s : State) (n : StrNo) (m : PairMap) : (s.storeMap n m).valueW = s.valueW := by simp [State.storeMap]
@[simp] theorem State.storeMap_tagL (s : State) (n : StrNo) (m : PairMap) : (s.storeMap n m).tagL = s.tagL := by simp [State.storeMap]
@[simp] theorem State.storeMap_lcmwAdr (s : State) (n : StrNo) (m : PairMap) : (s.storeMap n m).lcmwAdr = s.lcmwAdr := by simp [State.storeMap]
@[simp] theorem State.storeMap_lcmrAdr (s : State) (n : StrNo) (m : PairMap) : (s.storeMap n m).lcmrAdr = s.lcmrAdr := by simp [State.storeMap]
@[simp] theorem State.storeMap_lsmwAdr (s : State) (n : StrNo) (m : PairMap) : (s.storeMap n m).lsmwAdr = s.lsmwAdr := by simp [State.storeMap]
@[simp] theorem State.storeMap_lsmrAdr (s : State) (n : StrNo) (m : PairMap) : (s.storeMap n m).lsmrAdr = s.lsmrAdr := by simp [State.storeMap]
@[simp] theorem State.storeMap_lmdW (s : State) (n : StrNo) (m : PairMap) : (s.storeMap n m).lmdW = s.lmdW := by simp [State.storeMap]
@[simp] theorem State.storeMap_control0 (s : State) (n : StrNo) (m : PairMap) : (s.storeMap n m).control0 = s.control0 := by simp [State.storeMap]
@[simp] theorem State.storeMap_tsc (s : State) (n : StrNo) (m : PairMap) : (s.storeMap n m).tsc = s.tsc := by simp [State.storeMap]
@[simp] theorem State.storeMap_dmaRead (s : State) (n : StrNo) (m : PairMap) : (s.storeMap n m).dmaRead = s.dmaRead := by simp [State.storeMap]
@[simp] theorem State.storeMap_rst (s : State) (n : StrNo) (m : PairMap) : (s.storeMap n m).rst = s.rst := by simp [State.storeMap]
@[simp] theorem State.storeMap_params (s : State) (n : StrNo) (m : PairMap) : (s.storeMap n m).params = s.params := by simp [State.storeMap]
@[simp] theorem State.storeMap_draws (s : State) (n : StrNo) (m : PairMap) : (s.storeMap n m).draws = s.draws := by simp [State.storeMap]
@[simp] theorem State.storeMap_turns (s : State) (n : StrNo) (m : PairMap) : (s.storeMap n m).turns = s.turns := by simp [State.storeMap]
@[simp] theorem State.storeMap_insAnswers (s : State) (n : StrNo) (m : PairMap) : (s.storeMap n m).insAnswers = s.insAnswers := by simp [State.storeMap]
@[simp] theorem State.storeMap_setopAnswers (s : State) (n : StrNo) (m : PairMap) : (s.storeMap n m).setopAnswers = s.setopAnswers := by simp [State.storeMap]
@[simp] theorem State.storeMap_issuer (s : State) (n : StrNo) (m : PairMap) : (s.storeMap n m).issuer = s.issuer := by simp [State.storeMap]

/-! ### redraw -/

@[simp] theorem State.redraw_ip (s : State) (n : StrNo) : (s.redraw n).ip = s.ip := by simp [State.redraw]
@[simp] theorem State.redraw_lcm (s : State) (n : StrNo) : (s.redraw n).lcm = s.lcm := by simp [State.redraw]
@[simp] theorem State.redraw_wait (s : State) (n : StrNo) : (s.redraw n).wait = s.wait := by simp [State.redraw]
@[simp] theorem State.redraw_fetched (s : State) (n : StrNo) : (s.redraw n).fetched = s.fetched := by simp [State.redraw]
@[simp] theorem State.redraw_last (s : State) (n : StrNo) : (s.redraw n).last = s.last := by simp [State.redraw]
@[simp] theorem State.redraw_c2s (s : State) (n : StrNo) : (s.redraw n).c2s = s.c2s := by simp [State.redraw]
@[simp] theorem State.redraw_s2c (s : State) (n : StrNo) : (s.redraw n).s2c = s.s2c := by simp [State.redraw]
@[simp] theorem State.redraw_pci2sys (s : State) (n : StrNo) : (s.redraw n).pci2sys = s.pci2sys := by simp [State.redraw]
@[simp] theorem State.redraw_sys2pci (s : State) (n : StrNo) : (s.redraw n).sys2pci = s.sys2pci := by simp [State.redraw]
@[simp] theorem State.redraw_drFlag (s : State) (n : StrNo) : (s.redraw n).drFlag = s.drFlag := by simp [State.redraw]
@[simp] theorem State.redraw_ovfFlag (s : State) (n : StrNo) : (s.redraw n).ovfFlag = s.ovfFlag := by simp [State.redraw]
@[simp] theorem State.redraw_owr (s : State) (n : StrNo) : (s.redraw n).owr = s.owr := by simp [State.redraw]
@[simp] theorem State.redraw_keyW (s : State) (n : StrNo) : (s.redraw n).keyW = s.keyW := by simp [State.redraw]
@[simp] theorem State.redraw_valueW (s : State) (n : StrNo) : (s.redraw n).valueW = s.valueW := by simp [State.redraw]
@[simp] theorem State.redraw_tagL (s : State) (n : StrNo) : (s.redraw n).tagL = s.tagL := by simp [State.redraw]
@[simp] theorem State.redraw_lcmwAdr (s : State) (n : StrNo) : (s.redraw n).lcmwAdr = s.lcmwAdr := by simp [State.redraw]
@[simp] theorem State.redraw_lcmrAdr (s : State) (n : StrNo) : (s.redraw n).lcmrAdr = s.lcmrAdr := by simp [State.redraw]
@[simp] theorem State.redraw_lsmwAdr (s : State) (n : StrNo) : (s.redraw n).lsmwAdr = s.lsmwAdr := by simp [State.redraw]
@[simp] theorem State.redraw_lsmrAdr (s : State) (n : StrNo) : (s.redraw n).lsmrAdr = s.lsmrAdr := by simp [State.redraw]
@[simp] theorem State.redraw_lmdW (s : State) (n : StrNo) : (s.redraw n).lmdW = s.lmdW := by simp [State.redraw]
@[simp] theorem State.redraw_control0 (s : State) (n : StrNo) : (s.redraw n).control0 = s.control0 := by simp [State.redraw]
@[simp] theorem State.redraw_tsc (s : State) (n : StrNo) : (s.redraw n).tsc = s.tsc := by simp [State.redraw]
@[simp] theorem State.redraw_dmaRead (s : State) (n : StrNo) : (s.redraw n).dmaRead = s.dmaRead := by simp [State.redraw]
@[simp] theorem State.redraw_rst (s : State) (n : StrNo) : (s.redraw n).rst = s.rst := by simp [State.redraw]
@[simp] theorem State.redraw_params (s : State) (n : StrNo) : (s.redraw n).params = s.params := by simp [State.redraw]
@[simp] theorem State.redraw_draws (s : State) (n : StrNo) : (s.redraw n).draws = s.draws := by simp [State.redraw]
@[simp] theorem State.redraw_turns (s : State) (n : StrNo) : (s.redraw n).turns = s.turns := by simp [State.redraw]
@[simp] theorem State.redraw_insAnswers (s : State) (n : StrNo) : (s.redraw n).insAnswers = s.insAnswers := by simp [State.redraw]
@[simp] theorem State.redraw_setopAnswers (s : State) (n : StrNo) : (s.redraw n).setopAnswers = s.setopAnswers := by simp [State.redraw]
@[simp] theorem State.redraw_issuer (s : State) (n : StrNo) : (s.redraw n).issuer = s.issuer := by simp [State.redraw]

/-! ### popInsAnswer -/

@[simp] theorem State.popInsAnswer_structs (s : State) : s.popInsAnswer.structs = s.structs := rfl
@[simp] theorem State.popInsAnswer_ip (s : State) : s.popInsAnswer.ip = s.ip := rfl
@[simp] theorem State.popInsAnswer_lcm (s : State) : s.popInsAnswer.lcm = s.lcm := rfl
@[simp] theorem State.popInsAnswer_wait (s : State) : s.popInsAnswer.wait = s.wait := rfl
@[simp] theorem State.popInsAnswer_fetched (s : State) : s.popInsAnswer.fetched = s.fetched := rfl
@[simp] theorem State.popInsAnswer_last (s : State) : s.popInsAnswer.last = s.last := rfl
@[simp] theorem State.popInsAnswer_c2s (s : State) : s.popInsAnswer.c2s = s.c2s := rfl
@[simp] theorem State.popInsAnswer_s2c (s : State) : s.popInsAnswer.s2c = s.s2c := rfl
@[simp] theorem State.popInsAnswer_pci2sys (s : State) : s.popInsAnswer.pci2sys = s.pci2sys := rfl
@[simp] theorem State.popInsAnswer_sys2pci (s : State) : s.popInsAnswer.sys2pci = s.sys2pci := rfl
@[simp] theorem State.popInsAnswer_drFlag (s : State) : s.popInsAnswer.drFlag = s.drFlag := rfl
@[simp] theorem State.popInsAnswer_ovfFlag (s : State) : s.popInsAnswer.ovfFlag = s.ovfFlag := rfl
@[simp] theorem State.popInsAnswer_owr (s : State) : s.popInsAnswer.owr = s.owr := rfl
@[simp] theorem State.popInsAnswer_keyW (s : State) : s.popInsAnswer.keyW = s.keyW := rfl
@[simp] theorem State.popInsAnswer_valueW (s : State) : s.popInsAnswer.valueW = s.valueW := rfl
@[simp] theorem State.popInsAnswer_tagL (s : State) : s.popInsAnswer.tagL = s.tagL := rfl
@[simp] theorem State.popInsAnswer_lcmwAdr (s : State) : s.popInsAnswer.lcmwAdr = s.lcmwAdr := rfl
@[simp] theorem State.popInsAnswer_lcmrAdr (s : State) : s.popInsAnswer.lcmrAdr = s.lcmrAdr := rfl
@[simp] theorem State.popInsAnswer_lsmwAdr (s : State) : s.popInsAnswer.lsmwAdr = s.lsmwAdr := rfl
@[simp] theorem State.popInsAnswer_lsmrAdr (s : State) : s.popInsAnswer.lsmrAdr = s.lsmrAdr := rfl
@[simp] theorem State.popInsAnswer_lmdW (s : State) : s.popInsAnswer.lmdW = s.lmdW := rfl
@[simp] theorem State.popInsAnswer_control0 (s : State) : s.popInsAnswer.control0 = s.control0 := rfl
@[simp] theorem State.popInsAnswer_tsc (s : State) : s.popInsAnswer.tsc = s.tsc := rfl
@[simp] theorem State.popInsAnswer_dmaRead (s : State) : s.popInsAnswer.dmaRead = s.dmaRead := rfl
@[simp] theorem State.popInsAnswer_rst (s : State) : s.popInsAnswer.rst = s.rst := rfl
@[simp] theorem State.popInsAnswer_params (s : State) : s.popInsAnswer.params = s.params := rfl
@[simp] theorem State.popInsAnswer_draws (s : State) : s.popInsAnswer.draws = s.draws := rfl
@[simp] theorem State.popInsAnswer_turns (s : State) : s.popInsAnswer.turns = s.turns := rfl
@[simp] theorem State.popInsAnswer_setopAnswers (s : State) : s.popInsAnswer.setopAnswers = s.setopAnswers := rfl
@[simp] theorem State.popInsAnswer_issuer (s : State) : s.popInsAnswer.issuer = s.issuer := rfl

/-! ### popSetopAnswer -/

@[simp] theorem State.popSetopAnswer_structs (s : State) : s.popSetopAnswer.structs = s.structs := rfl
@[simp] theorem State.popSetopAnswer_ip (s : State) : s.popSetopAnswer.ip = s.ip := rfl
@[simp] theorem State.popSetopAnswer_lcm (s : State) : s.popSetopAnswer.lcm = s.lcm := rfl
@[simp] theorem State.popSetopAnswer_wait (s : State) : s.popSetopAnswer.wait = s.wait := rfl
@[simp] theorem State.popSetopAnswer_fetched (s : State) : s.popSetopAnswer.fetched = s.fetched := rfl
@[simp] theorem State.popSetopAnswer_last (s : State) : s.popSetopAnswer.last = s.last := rfl
@[simp] theorem State.popSetopAnswer_c2s (s : State) : s.popSetopAnswer.c2s = s.c2s := rfl
@[simp] theorem State.popSetopAnswer_s2c (s : State) : s.popSetopAnswer.s2c = s.s2c := rfl
@[simp] theorem State.popSetopAnswer_pci2sys (s : State) : s.popSetopAnswer.pci2sys = s.pci2sys := rfl
@[simp] theorem State.popSetopAnswer_sys2pci (s : State) : s.popSetopAnswer.sys2pci = s.sys2pci := rfl
@[simp] theorem State.popSetopAnswer_drFlag (s : State) : s.popSetopAnswer.drFlag = s.drFlag := rfl
@[simp] theorem State.popSetopAnswer_ovfFlag (s : State) : s.popSetopAnswer.ovfFlag = s.ovfFlag := rfl
@[simp] theorem State.popSetopAnswer_owr (s : State) : s.popSetopAnswer.owr = s.owr := rfl
@[simp] theorem State.popSetopAnswer_keyW (s : State) : s.popSetopAnswer.keyW = s.keyW := rfl
@[simp] theorem State.popSetopAnswer_valueW (s : State) : s.popSetopAnswer.valueW = s.valueW := rfl
@[simp] theorem State.popSetopAnswer_tagL (s : State) : s.popSetopAnswer.tagL = s.tagL := rfl
@[simp] theorem State.popSetopAnswer_lcmwAdr (s : State) : s.popSetopAnswer.lcmwAdr = s.lcmwAdr := rfl
@[simp] theorem State.popSetopAnswer_lcmrAdr (s : State) : s.popSetopAnswer.lcmrAdr = s.lcmrAdr := rfl
@[simp] theorem State.popSetopAnswer_lsmwAdr (s : State) : s.popSetopAnswer.lsmwAdr = s.lsmwAdr := rfl
@[simp] theorem State.popSetopAnswer_lsmrAdr (s : State) : s.popSetopAnswer.lsmrAdr = s.lsmrAdr := rfl
@[simp] theorem State.popSetopAnswer_lmdW (s : State) : s.popSetopAnswer.lmdW = s.lmdW := rfl
@[simp] theorem State.popSetopAnswer_control0 (s : State) : s.popSetopAnswer.control0 = s.control0 := rfl
@[simp] theorem State.popSetopAnswer_tsc (s : State) : s.popSetopAnswer.tsc = s.tsc := rfl
@[simp] theorem State.popSetopAnswer_dmaRead (s : State) : s.popSetopAnswer.dmaRead = s.dmaRead := rfl
@[simp] theorem State.popSetopAnswer_rst (s : State) : s.popSetopAnswer.rst = s.rst := rfl
@[simp] theorem State.popSetopAnswer_params (s : State) : s.popSetopAnswer.params = s.params := rfl
@[simp] theorem State.popSetopAnswer_draws (s : State) : s.popSetopAnswer.draws = s.draws := rfl
@[simp] theorem State.popSetopAnswer_turns (s : State) : s.popSetopAnswer.turns = s.turns := rfl
@[simp] theorem State.popSetopAnswer_insAnswers (s : State) : s.popSetopAnswer.insAnswers = s.insAnswers := rfl
@[simp] theorem State.popSetopAnswer_issuer (s : State) : s.popSetopAnswer.issuer = s.issuer := rfl

/-! ### advance -/

@[simp] theorem State.advance_structs (s : State) : s.advance.structs = s.structs := by unfold State.advance; split <;> rfl
@[simp] theorem State.advance_lcm (s : State) : s.advance.lcm = s.lcm := by unfold State.advance; split <;> rfl
@[simp] theorem State.advance_wait (s : State) : s.advance.wait = s.wait := by unfold State.advance; split <;> rfl
@[simp] theorem State.advance_fetched (s : State) : s.advance.fetched = s.fetched := by unfold State.advance; split <;> rfl
@[simp] theorem State.advance_last (s : State) : s.advance.last = s.last := by unfold State.advance; split <;> rfl
@[simp] theorem State.advance_c2s (s : State) : s.advance.c2s = s.c2s := by unfold State.advance; split <;> rfl
@[simp] theorem State.advance_s2c (s : State) : s.advance.s2c = s.s2c := by unfold State.advance; split <;> rfl
@[simp] theorem State.advance_pci2sys (s : State) : s.advance.pci2sys = s.pci2sys := by unfold State.advance; split <;> rfl
@[simp] theorem State.advance_sys2pci (s : State) : s.advance.sys2pci = s.sys2pci := by unfold State.advance; split <;> rfl
@[simp] theorem State.advance_drFlag (s : State) : s.advance.drFlag = s.drFlag := by unfold State.advance; split <;> rfl
@[simp] theorem State.advance_ovfFlag (s : State) : s.advance.ovfFlag = s.ovfFlag := by unfold State.advance; split <;> rfl
@[simp] theorem State.advance_owr (s : State) : s.advance.owr = s.owr := by unfold State.advance; split <;> rfl
@[simp] theorem State.advance_keyW (s : State) : s.advance.keyW = s.keyW := by unfold State.advance; split <;> rfl
@[simp] theorem State.advance_valueW (s : State) : s.advance.valueW = s.valueW := by unfold State.advance; split <;> rfl
@[simp] theorem State.advance_tagL (s : State) : s.advance.tagL = s.tagL := by unfold State.advance; split <;> rfl
@[simp] theorem State.advance_lcmwAdr (s : State) : s.advance.lcmwAdr = s.lcmwAdr := by unfold State.advance; split <;> rfl
@[simp] theorem State.advance_lcmrAdr (s : State) : s.advance.lcmrAdr = s.lcmrAdr := by unfold State.advance; split <;> rfl
@[simp] theorem State.advance_lsmwAdr (s : State) : s.advance.lsmwAdr = s.lsmwAdr := by unfold State.advance; split <;> rfl
@[simp] theorem State.advance_lsmrAdr (s : State) : s.advance.lsmrAdr = s.lsmrAdr := by unfold State.advance; split <;> rfl
@[simp] theorem State.advance_lmdW (s : State) : s.advance.lmdW = s.lmdW := by unfold State.advance; split <;> rfl
@[simp] theorem State.advance_control0 (s : State) : s.advance.control0 = s.control0 := by unfold State.advance; split <;> rfl
@[simp] theorem State.advance_tsc (s : State) : s.advance.tsc = s.tsc := by unfold State.advance; split <;> rfl
@[simp] theorem State.advance_dmaRead (s : State) : s.advance.dmaRead = s.dmaRead := by unfold State.advance; split <;> rfl
@[simp] theorem State.advance_rst (s : State) : s.advance.rst = s.rst := by unfold State.advance; split <;> rfl
@[simp] theorem State.advance_params (s : State) : s.advance.params = s.params := by unfold State.advance; split <;> rfl
@[simp] theorem State.advance_draws (s : State) : s.advance.draws = s.draws := by unfold State.advance; split <;> rfl
@[simp] theorem State.advance_turns (s : State) : s.advance.turns = s.turns := by unfold State.advance; split <;> rfl
@[simp] theorem State.advance_insAnswers (s : State) : s.advance.insAnswers = s.insAnswers := by unfold State.advance; split <;> rfl
@[simp] theorem State.advance_setopAnswers (s : State) : s.advance.setopAnswers = s.setopAnswers := by unfold State.advance; split <;> rfl
@[simp] theorem State.advance_issuer (s : State) : s.advance.issuer = s.issuer := by unfold State.advance; split <;> rfl

/-! ### endWait -/

@[simp] theorem State.endWait_structs (s : State) : s.endWait.structs = s.structs := by unfold State.endWait; split <;> rfl
@[simp] theorem State.endWait_ip (s : State) : s.endWait.ip = s.ip := by unfold State.endWait; split <;> rfl
@[simp] theorem State.endWait_lcm (s : State) : s.endWait.lcm = s.lcm := by unfold State.endWait; split <;> rfl
@[simp] theorem State.endWait_last (s : State) : s.endWait.last = s.last := by unfold State.endWait; split <;> rfl
@[simp] theorem State.endWait_c2s (s : State) : s.endWait.c2s = s.c2s := by unfold State.endWait; split <;> rfl
@[simp] theorem State.endWait_s2c (s : State) : s.endWait.s2c = s.s2c := by unfold State.endWait; split <;> rfl
@[simp] theorem State.endWait_pci2sys (s : State) : s.endWait.pci2sys = s.pci2sys := by unfold State.endWait; split <;> rfl
@[simp] theorem State.endWait_sys2pci (s : State) : s.endWait.sys2pci = s.sys2pci := by unfold State.endWait; split <;> rfl
@[simp] theorem State.endWait_drFlag (s : State) : s.endWait.drFlag = s.drFlag := by unfold State.endWait; split <;> rfl
@[simp] theorem State.endWait_ovfFlag (s : State) : s.endWait.ovfFlag = s.ovfFlag := by unfold State.endWait; split <;> rfl
@[simp] theorem State.endWait_owr (s : State) : s.endWait.owr = s.owr := by unfold State.endWait; split <;> rfl
@[simp] theorem State.endWait_keyW (s : State) : s.endWait.keyW = s.keyW := by unfold State.endWait; split <;> rfl
@[simp] theorem State.endWait_valueW (s : State) : s.endWait.valueW = s.valueW := by unfold State.endWait; split <;> rfl
@[simp] theorem State.endWait_tagL (s : State) : s.endWait.tagL = s.tagL := by unfold State.endWait; split <;> rfl
@[simp] theorem State.endWait_lcmwAdr (s : State) : s.endWait.lcmwAdr = s.lcmwAdr := by unfold State.endWait; split <;> rfl
@[simp] theorem State.endWait_lcmrAdr (s : State) : s.endWait.lcmrAdr = s.lcmrAdr := by unfold State.endWait; split <;> rfl
@[simp] theorem State.endWait_lsmwAdr (s : State) : s.endWait.lsmwAdr = s.lsmwAdr := by unfold State.endWait; split <;> rfl
@[simp] theorem State.endWait_lsmrAdr (s : State) : s.endWait.lsmrAdr = s.lsmrAdr := by unfold State.endWait; split <;> rfl
@[simp] theorem State.endWait_lmdW (s : State) : s.endWait.lmdW = s.lmdW := by unfold State.endWait; split <;> rfl
@[simp] theorem State.endWait_control0 (s : State) : s.endWait.control0 = s.control0 := by unfold State.endWait; split <;> rfl
@[simp] theorem State.endWait_tsc (s : State) : s.endWait.tsc = s.tsc := by unfold State.endWait; split <;> rfl
@[simp] theorem State.endWait_dmaRead (s : State) : s.endWait.dmaRead = s.dmaRead := by unfold State.endWait; split <;> rfl
@[simp] theorem State.endWait_rst (s : State) : s.endWait.rst = s.rst := by unfold State.endWait; split <;> rfl
@[simp] theorem State.endWait_params (s : State) : s.endWait.params = s.params := by unfold State.endWait; split <;> rfl
@[simp] theorem State.endWait_draws (s : State) : s.endWait.draws = s.draws := by unfold State.endWait; split <;> rfl
@[simp] theorem State.endWait_turns (s : State) : s.endWait.turns = s.turns := by unfold State.endWait; split <;> rfl
@[simp] theorem State.endWait_insAnswers (s : State) : s.endWait.insAnswers = s.insAnswers := by unfold State.endWait; split <;> rfl
@[simp] theorem State.endWait_setopAnswers (s : State) : s.endWait.setopAnswers = s.setopAnswers := by unfold State.endWait; split <;> rfl
@[simp] theorem State.endWait_issuer (s : State) : s.endWait.issuer = s.issuer := by unfold State.endWait; split <;> rfl

/-! ### tick -/

@[simp] theorem State.tick_structs (s : State) : s.tick.structs = s.structs := by unfold State.tick; split <;> rfl
@[simp] theorem State.tick_ip (s : State) : s.tick.ip = s.ip := by unfold State.tick; split <;> rfl
@[simp] theorem State.tick_lcm (s : State) : s.tick.lcm = s.lcm := by unfold State.tick; split <;> rfl
@[simp] theorem State.tick_wait (s : State) : s.tick.wait = s.wait := by unfold State.tick; split <;> rfl
@[simp] theorem State.tick_fetched (s : State) : s.tick.fetched = s.fetched := by unfold State.tick; split <;> rfl
@[simp] theorem State.tick_last (s : State) : s.tick.last = s.last := by unfold State.tick; split <;> rfl
@[simp] theorem State.tick_c2s (s : State) : s.tick.c2s = s.c2s := by unfold State.tick; split <;> rfl
@[simp] theorem State.tick_s2c (s : State) : s.tick.s2c = s.s2c := by unfold State.tick; split <;> rfl
@[simp] theorem State.tick_pci2sys (s : State) : s.tick.pci2sys = s.pci2sys := by unfold State.tick; split <;> rfl
@[simp] theorem State.tick_sys2pci (s : State) : s.tick.sys2pci = s.sys2pci := by unfold State.tick; split <;> rfl
@[simp] theorem State.tick_drFlag (s : State) : s.tick.drFlag = s.drFlag := by unfold State.tick; split <;> rfl
@[simp] theorem State.tick_ovfFlag (s : State) : s.tick.ovfFlag = s.ovfFlag := by unfold State.tick; split <;> rfl
@[simp] theorem State.tick_owr (s : State) : s.tick.owr = s.owr := by unfold State.tick; split <;> rfl
@[simp] theorem State.tick_keyW (s : State) : s.tick.keyW = s.keyW := by unfold State.tick; split <;> rfl
@[simp] theorem State.tick_valueW (s : State) : s.tick.valueW = s.valueW := by unfold State.tick; split <;> rfl
@[simp] theorem State.tick_tagL (s : State) : s.tick.tagL = s.tagL := by unfold State.tick; split <;> rfl
@[simp] theorem State.tick_lcmwAdr (s : State) : s.tick.lcmwAdr = s.lcmwAdr := by unfold State.tick; split <;> rfl
@[simp] theorem State.tick_lcmrAdr (s : State) : s.tick.lcmrAdr = s.lcmrAdr := by unfold State.tick; split <;> rfl
@[simp] theorem State.tick_lsmwAdr (s : State) : s.tick.lsmwAdr = s.lsmwAdr := by unfold State.tick; split <;> rfl
@[simp] theorem State.tick_lsmrAdr (s : State) : s.tick.lsmrAdr = s.lsmrAdr := by unfold State.tick; split <;> rfl
@[simp] theorem State.tick_lmdW (s : State) : s.tick.lmdW = s.lmdW := by unfold State.tick; split <;> rfl
@[simp] theorem State.tick_control0 (s : State) : s.tick.control0 = s.control0 := by unfold State.tick; split <;> rfl
@[simp] theorem State.tick_dmaRead (s : State) : s.tick.dmaRead = s.dmaRead := by unfold State.tick; split <;> rfl
@[simp] theorem State.tick_rst (s : State) : s.tick.rst = s.rst := by unfold State.tick; split <;> rfl
@[simp] theorem State.tick_params (s : State) : s.tick.params = s.params := by unfold State.tick; split <;> rfl
@[simp] theorem State.tick_draws (s : State) : s.tick.draws = s.draws := by unfold State.tick; split <;> rfl
@[simp] theorem State.tick_turns (s : State) : s.tick.turns = s.turns := by unfold State.tick; split <;> rfl
@[simp] theorem State.tick_insAnswers (s : State) : s.tick.insAnswers = s.insAnswers := by unfold State.tick; split <;> rfl
@[simp] theorem State.tick_setopAnswers (s : State) : s.tick.setopAnswers = s.setopAnswers := by unfold State.tick; split <;> rfl
@[simp] theorem State.tick_issuer (s : State) : s.tick.issuer = s.issuer := by unfold State.tick; split <;> rfl

/-! ### beginStep -/

@[simp] theorem State.beginStep_structs (s : State) : s.beginStep.structs = s.structs := by simp [State.beginStep]
@[simp] theorem State.beginStep_ip (s : State) : s.beginStep.ip = s.ip := by simp [State.beginStep]
@[simp] theorem State.beginStep_lcm (s : State) : s.beginStep.lcm = s.lcm := by simp [State.beginStep]
@[simp] theorem State.beginStep_wait (s : State) : s.beginStep.wait = s.wait := by simp [State.beginStep]
@[simp] theorem State.beginStep_fetched (s : State) : s.beginStep.fetched = s.fetched := by simp [State.beginStep]
@[simp] theorem State.beginStep_last (s : State) : s.beginStep.last = s.last := by simp [State.beginStep]
@[simp] theorem State.beginStep_c2s (s : State) : s.beginStep.c2s = s.c2s := by simp [State.beginStep]
@[simp] theorem State.beginStep_s2c (s : State) : s.beginStep.s2c = s.s2c := by simp [State.beginStep]
@[simp] theorem State.beginStep_pci2sys (s : State) : s.beginStep.pci2sys = s.pci2sys := by simp [State.beginStep]
@[simp] theorem State.beginStep_sys2pci (s : State) : s.beginStep.sys2pci = s.sys2pci := by simp [State.beginStep]
@[simp] theorem State.beginStep_drFlag (s : State) : s.beginStep.drFlag = s.drFlag := by simp [State.beginStep]
@[simp] theorem State.beginStep_ovfFlag (s : State) : s.beginStep.ovfFlag = s.ovfFlag := by simp [State.beginStep]
@[simp] theorem State.beginStep_owr (s : State) : s.beginStep.owr = s.owr := by simp [State.beginStep]
@[simp] theorem State.beginStep_keyW (s : State) : s.beginStep.keyW = s.keyW := by simp [State.beginStep]
@[simp] theorem State.beginStep_valueW (s : State) : s.beginStep.valueW = s.valueW := by simp [State.beginStep]
@[simp] theorem State.beginStep_tagL (s : State) : s.beginStep.tagL = s.tagL := by simp [State.beginStep]
@[simp] theorem State.beginStep_lcmwAdr (s : State) : s.beginStep.lcmwAdr = s.lcmwAdr := by simp [State.beginStep]
@[simp] theorem State.beginStep_lcmrAdr (s : State) : s.beginStep.lcmrAdr = s.lcmrAdr := by simp [State.beginStep]
@[simp] theorem State.beginStep_lsmwAdr (s : State) : s.beginStep.lsmwAdr = s.lsmwAdr := by simp [State.beginStep]
@[simp] theorem State.beginStep_lsmrAdr (s : State) : s.beginStep.lsmrAdr = s.lsmrAdr := by simp [State.beginStep]
@[simp] theorem State.beginStep_lmdW (s : State) : s.beginStep.lmdW = s.lmdW := by simp [State.beginStep]
@[simp] theorem State.beginStep_control0 (s : State) : s.beginStep.control0 = s.control0 := by simp [State.beginStep]
@[simp] theorem State.beginStep_dmaRead (s : State) : s.beginStep.dmaRead = s.dmaRead := by simp [State.beginStep]
@[simp] theorem State.beginStep_rst (s : State) : s.beginStep.rst = s.rst := by simp [State.beginStep]
@[simp] theorem State.beginStep_params (s : State) : s.beginStep.params = s.params := by simp [State.beginStep]
@[simp] theorem State.beginStep_insAnswers (s : State) : s.beginStep.insAnswers = s.insAnswers := by simp [State.beginStep]
@[simp] theorem State.beginStep_setopAnswers (s : State) : s.beginStep.setopAnswers = s.setopAnswers := by simp [State.beginStep]
@[simp] theorem State.beginStep_issuer (s : State) : s.beginStep.issuer = s.issuer := by simp [State.beginStep]

end Sys2Proof.Machine
end

