-- ==== Sys2Proof/Laws/Ops.lean ====
section
/-! SUPPORT. For each shared operation what it does, once: structures, delivered results, the advance, the
oracles and the resets. -/

namespace Sys2Proof.Machine

/-! ### Completion codes -/

/-- Every cause is listed. -/
theorem mem_allCauses (c : Cause) : c ∈ allCauses := by cases c <;> decide

/-- ERRCODE is injective (spec/60_exceptions.md R262, D15). -/
theorem errCode_injective : Function.Injective errCode := by
  intro c d h
  unfold errCode at h
  split at h
  · next hn => exact List.inj_on_of_nodup_map hn (mem_allCauses c) (mem_allCauses d) h
  · exact (List.idxOf_inj (mem_allCauses c)).mp h

/-! ### Structures -/

/-- The structures are all a read of a structure depends on. -/
theorem State.structure?_congr {s t : State} (h : t.structs = s.structs) (n : StrNo) :
    t.structure? n = s.structure? n := by
  simp [State.structure?, h]

@[simp] theorem State.structure?_recordLast (s : State) (v : Bool) (c : Cause) (k : Key) (x : Value) (n : StrNo) :
    (s.recordLast v c k x).structure? n = s.structure? n := by simp [State.structure?]

@[simp] theorem State.structure?_pushResult (s : State) (e : ResultEntry) (n : StrNo) :
    (s.pushResult e).structure? n = s.structure? n := by simp [State.structure?]

@[simp] theorem State.structure?_signalDataReady (s : State) (n : StrNo) :
    s.signalDataReady.structure? n = s.structure? n := by simp [State.structure?]

@[simp] theorem State.structure?_deliver (s : State) (q v : Bool) (c : Cause) (k : Option Key) (x : Option Value) (n : StrNo) :
    (s.deliver q v c k x).structure? n = s.structure? n := by simp [State.structure?]

@[simp] theorem State.structure?_raiseError (s : State) (q : Bool) (c : Cause) (n : StrNo) :
    (s.raiseError q c).structure? n = s.structure? n := by simp [State.structure?]

@[simp] theorem State.structure?_setPower (s : State) (k : Nat) (n : StrNo) :
    (s.setPower k).structure? n = s.structure? n := by simp [State.structure?]

@[simp] theorem State.structure?_popInsAnswer (s : State) (n : StrNo) :
    s.popInsAnswer.structure? n = s.structure? n := by simp [State.structure?]

@[simp] theorem State.structure?_popSetopAnswer (s : State) (n : StrNo) :
    s.popSetopAnswer.structure? n = s.structure? n := by simp [State.structure?]

@[simp] theorem State.structure?_advance (s : State) (n : StrNo) :
    s.advance.structure? n = s.structure? n := by simp [State.structure?]

@[simp] theorem State.structure?_endWait (s : State) (n : StrNo) :
    s.endWait.structure? n = s.structure? n := by simp [State.structure?]

@[simp] theorem State.structure?_tick (s : State) (n : StrNo) :
    s.tick.structure? n = s.structure? n := by simp [State.structure?]

@[simp] theorem State.structure?_beginStep (s : State) (n : StrNo) :
    s.beginStep.structure? n = s.structure? n := by simp [State.structure?]

@[simp] theorem State.structure?_zero (s : State) : s.structure? 0#3 = none := by simp [State.structure?]

/-- A structure number other than 0 names one of the seven slots. -/
theorem strNo_index_lt (n : StrNo) : n.toNat - 1 < Config.strNum := by
  have := n.isLt
  simp only [Config.strNum]
  omega

/-- Different structure numbers name different slots. -/
theorem strNo_index_ne {n n' : StrNo} (h : n ≠ 0#3) (h' : n' ≠ 0#3) (hne : n' ≠ n) : n.toNat - 1 ≠ n'.toNat - 1 := by
  have h0 : n.toNat ≠ 0 := fun e => h (BitVec.eq_of_toNat_eq (by simpa using e))
  have h0' : n'.toNat ≠ 0 := fun e => h' (BitVec.eq_of_toNat_eq (by simpa using e))
  have : n'.toNat ≠ n.toNat := fun e => hne (BitVec.eq_of_toNat_eq e)
  omega

/-- Reading a structure after assigning it. -/
@[simp] theorem State.structure?_setStructure_same (s : State) {n : StrNo} (h : n ≠ 0#3) (m : Option PairMap) :
    (s.setStructure n m).structure? n = m := by
  have := strNo_index_lt n
  simp [State.structure?, State.setStructure, h, this]

/-- Assigning one structure leaves the others alone. -/
theorem State.structure?_setStructure_other (s : State) {n n' : StrNo} (hne : n' ≠ n) (m : Option PairMap) :
    (s.setStructure n m).structure? n' = s.structure? n' := by
  by_cases h : n = 0#3
  · simp [State.setStructure, h]
  · by_cases h' : n' = 0#3
    · simp [h']
    · have := strNo_index_ne h h' hne
      simp [State.structure?, State.setStructure, h, h', this]

theorem State.structure?_storeMap_same (s : State) {n : StrNo} (h : n ≠ 0#3) (m : PairMap) :
    (s.storeMap n m).structure? n = contentOf s.params m := by
  simp [State.storeMap, h]

theorem State.structure?_storeMap_other (s : State) {n n' : StrNo} (hne : n' ≠ n) (m : PairMap) :
    (s.storeMap n m).structure? n' = s.structure? n' := State.structure?_setStructure_other s hne _

theorem State.structure?_redraw_other (s : State) {n n' : StrNo} (hne : n' ≠ n) :
    (s.redraw n).structure? n' = s.structure? n' := State.structure?_setStructure_other s hne _

/-- A map as a content is that map, and not empty unless empty structures exist (R24). -/
theorem contentOf_eq_some {p : Params} {m m' : PairMap} (h : contentOf p m = some m') :
    m' = m ∧ (m = [] → p.emptyExists = true) := by
  unfold contentOf at h
  split at h
  · simp at h
  · next hc =>
    obtain rfl := Option.some.inj h
    refine ⟨rfl, fun e => ?_⟩
    subst e
    simpa using hc

@[simp] theorem State.popInsAnswer_insAnswers (s : State) : s.popInsAnswer.insAnswers = s.insAnswers.tail := rfl

@[simp] theorem State.popSetopAnswer_setopAnswers (s : State) : s.popSetopAnswer.setopAnswers = s.setopAnswers.tail :=
  rfl

/-! ### Delivered results -/

@[simp] theorem State.recordLast_last (s : State) (v : Bool) (c : Cause) (k : Key) (x : Value) :
    (s.recordLast v c k x).last = ⟨true, v, some c, resultCode v c, k, x, s.last.power⟩ := rfl

/-- A full queue loses its oldest entry (R240). -/
@[simp] theorem State.pushResult_s2c (s : State) (e : ResultEntry) :
    (s.pushResult e).s2c = (if s.params.s2cDepth ≤ s.s2c.length then s.s2c.tail else s.s2c) ++ [e] := by
  unfold State.pushResult State.s2cFull
  by_cases h : s.params.s2cDepth ≤ s.s2c.length <;> simp [h]

@[simp] theorem State.pushResult_owr (s : State) (e : ResultEntry) :
    (s.pushResult e).owr = (s.owr || decide (s.params.s2cDepth ≤ s.s2c.length)) := by
  unfold State.pushResult State.s2cFull
  by_cases h : s.params.s2cDepth ≤ s.s2c.length <;> simp [h]

/-- DR_FLAG is set when its enable is 1 (R266). -/
@[simp] theorem State.signalDataReady_drFlag (s : State) :
    s.signalDataReady.drFlag = (s.drFlag || s.control0.getLsbD 5) := by
  unfold State.signalDataReady State.dataReadyEnabled
  cases h : s.control0.getLsbD 5 <;> simp

@[simp] theorem State.deliver_last (s : State) (q v : Bool) (c : Cause) (k : Option Key) (x : Option Value) :
    (s.deliver q v c k x).last = ⟨true, v, some c, resultCode v c, k.getD (Config.anyKey s.draws),
      x.getD (Config.anyValue s.draws), s.last.power⟩ := by
  cases q <;> simp [State.deliver]

/-- What `deliver` delivers (R238). -/
theorem State.deliver_spec (s : State) (q v : Bool) (c : Cause) (key : Option Key) (value : Option Value) :
    Delivered q v c (key.getD (Config.anyKey s.draws)) (value.getD (Config.anyValue s.draws)) s
      (s.deliver q v c key value) := by
  constructor <;> first | (simp; done) | (cases q <;> simp [State.deliver] <;> rfl)

/-- LAST.power survives a delivery (R238). -/
@[simp] theorem State.deliver_power (s : State) (q v : Bool) (c : Cause) (k : Option Key) (x : Option Value) :
    (s.deliver q v c k x).last.power = s.last.power := by
  simp

@[simp] theorem State.raiseError_power (s : State) (q : Bool) (c : Cause) :
    (s.raiseError q c).last.power = s.last.power := by
  simp [State.raiseError]

/-- What `raiseError` delivers (R13). -/
theorem State.raiseError_spec (s : State) (q : Bool) (c : Cause) :
    Delivered q false c (Config.anyKey s.draws) (Config.anyValue s.draws) s (s.raiseError q c) :=
  s.deliver_spec q false c none none

/-- A delivery says what its cause says. -/
theorem Delivered.resultsOk {q v : Bool} {c : Cause} {k : Key} {x : Value} {s t : State}
    (h : Delivered q v c k x s t) (hv : v = causeV c) (hs : s.ResultsOk) : t.ResultsOk := by
  obtain ⟨_, _, hq⟩ := hs
  refine ⟨h.lastR, fun c' hc => ?_, fun e he => ?_⟩
  · obtain rfl : c = c' := by simpa [h.lastCause] using hc
    exact ⟨by rw [h.lastV, hv], by rw [h.lastCode, h.lastV]⟩
  · rw [h.queue] at he
    cases q
    · exact hq e he
    · simp only [if_true, List.mem_append, List.mem_singleton] at he
      rcases he with he | rfl
      · split at he
        · exact hq e (List.mem_of_mem_tail he)
        · exact hq e he
      · exact ⟨hv, rfl⟩

/-- A delivery keeps S2C within its depth. -/
theorem Delivered.s2c_length {q v : Bool} {c : Cause} {k : Key} {x : Value} {s t : State}
    (h : Delivered q v c k x s t) (hd : 1 ≤ s.params.s2cDepth) (hs : s.s2c.length ≤ s.params.s2cDepth) :
    t.s2c.length ≤ s.params.s2cDepth := by
  rw [h.queue]
  split
  · split <;> simp <;> omega
  · exact hs

/-! ### Frames -/

theorem Untouched.refl (s : State) : Untouched s s := by constructor <;> rfl

theorem Untouched.trans {s t u : State} (h : Untouched s t) (g : Untouched t u) : Untouched s u := by
  constructor <;> first
    | exact g.lcm.trans h.lcm | exact g.c2s.trans h.c2s | exact g.pci2sys.trans h.pci2sys
    | exact g.sys2pci.trans h.sys2pci | exact g.ovfFlag.trans h.ovfFlag | exact g.keyW.trans h.keyW
    | exact g.valueW.trans h.valueW | exact g.tagL.trans h.tagL | exact g.lcmwAdr.trans h.lcmwAdr
    | exact g.lcmrAdr.trans h.lcmrAdr | exact g.lsmwAdr.trans h.lsmwAdr | exact g.lsmrAdr.trans h.lsmrAdr
    | exact g.lmdW.trans h.lmdW | exact g.control0.trans h.control0 | exact g.tsc.trans h.tsc
    | exact g.dmaRead.trans h.dmaRead | exact g.rst.trans h.rst | exact g.params.trans h.params
    | exact g.draws.trans h.draws | exact g.turns.trans h.turns | exact g.issuer.trans h.issuer

theorem State.deliver_untouched (s : State) (q v : Bool) (c : Cause) (k : Option Key) (x : Option Value) :
    Untouched s (s.deliver q v c k x) := by constructor <;> simp

theorem State.raiseError_untouched (s : State) (q : Bool) (c : Cause) : Untouched s (s.raiseError q c) := by
  constructor <;> simp

theorem State.setStructure_untouched (s : State) (n : StrNo) (m : Option PairMap) :
    Untouched s (s.setStructure n m) := by constructor <;> simp

theorem State.storeMap_untouched (s : State) (n : StrNo) (m : PairMap) : Untouched s (s.storeMap n m) := by
  constructor <;> simp

theorem State.redraw_untouched (s : State) (n : StrNo) : Untouched s (s.redraw n) := by constructor <;> simp

theorem State.setPower_untouched (s : State) (n : Nat) : Untouched s (s.setPower n) := by
  constructor <;> simp

theorem State.popInsAnswer_untouched (s : State) : Untouched s s.popInsAnswer := by constructor <;> simp

theorem State.popSetopAnswer_untouched (s : State) : Untouched s s.popSetopAnswer := by constructor <;> simp

theorem State.advance_untouched (s : State) : Untouched s s.advance := by constructor <;> simp

theorem State.endWait_untouched (s : State) : Untouched s s.endWait := by constructor <;> simp

/-- From the state after the wait to the state after the advance the stream goes on (R26). -/
theorem State.advanced_of {s t : State} (hip : t.ip = s.endWait.ip) (hw : t.wait = s.endWait.wait ∧ t.fetched = s.endWait.fetched)
    (hi : t.issuer = s.issuer) : Advanced s t.advance := by
  unfold Advanced
  cases h : s.issuer <;> simp_all [State.advance, State.endWait]

/-! ### Oracles -/

/-- `ok` is never answered for a full structure (R153). -/
theorem State.insAnswer_ok {s : State} {m : PairMap} (h : s.insAnswer m = .ok) : m.length < Config.strVal := by
  unfold State.insAnswer at h
  by_contra hn
  simp only [Nat.not_lt] at hn
  simp only [hn, true_and] at h
  split at h <;> simp_all

/-- `ok` is never answered for a result of more than STR_VAL keys (R192). -/
theorem State.setopAnswer_ok {s : State} {n : Nat} (h : s.setopAnswer n = .ok) : n ≤ Config.strVal := by
  unfold State.setopAnswer at h
  split at h
  · simp at h
  · omega

end Sys2Proof.Machine
end

