-- ==== Sys2Proof/Laws/Operands.lean ====
section
/-! SUPPORT. What the operand forms do (spec/43_jump.md R213): a command whose operands are known goes on with
their values; if the execution of a command gives a next state, its operands were known or the MISD stream
began to wait. -/

namespace Sys2Proof.Machine

/-- The next state of a wait changes only the wait (R29). -/
theorem State.waitTags_next {s t : State} {a b c : Bool} (h : s.waitTags a b c = .next t) :
    s.issuer = .misd ∧ t = { s with wait := ⟨s.wait.t0.hold a, s.wait.t1.hold b, s.wait.t2.hold c⟩ } := by
  unfold State.waitTags at h
  cases hi : s.issuer <;> simp [hi] at h
  exact ⟨rfl, h.symm⟩

theorem State.whenDdrGood_next {s t : State} {k : Result} (h : s.whenDdrGood k = .next t) :
    s.params.ddrBist = true ∧ k = .next t := by
  unfold State.whenDdrGood at h
  split at h
  · exact ⟨‹_›, h⟩
  · simp at h

theorem requireStr_next {n : StrNo} {k : Result} {t : State} (h : requireStr n k = .next t) :
    n ≠ 0#3 ∧ k = .next t := by
  unfold requireStr at h
  split at h
  · simp at h
  · exact ⟨‹_›, h⟩

theorem withStr_eq {s : State} {str : Operand StrNo} {n : StrNo} (h : StrIs s str n)
    (k : StrNo → State → Result) : withStr str s k = k n s.endWait := by
  obtain ⟨hd, hr, hn⟩ := h
  simp [withStr, State.whenDdrGood, requireStr, hd, hr, hn]

theorem withStrKey_eq {s : State} {str : Operand StrNo} {key : Operand Key} {n : StrNo} {x : Key}
    (h : StrKeyIs s str key n x) (k : StrNo → Key → State → Result) :
    withStrKey str key s k = k n x s.endWait := by
  obtain ⟨⟨hd, hr, hn⟩, hx⟩ := h
  simp [withStrKey, State.whenDdrGood, requireStr, hd, hr, hn, hx]

theorem withStrKeyValue_eq {s : State} {str : Operand StrNo} {key : Operand Key} {value : Operand Value}
    {n : StrNo} {x : Key} {v : Value} (h : StrKeyValueIs s str key value n x v)
    (k : StrNo → Key → Value → State → Result) :
    withStrKeyValue str key value s k = k n x v s.endWait := by
  obtain ⟨⟨⟨hd, hr, hn⟩, hx⟩, hv⟩ := h
  simp [withStrKeyValue, State.whenDdrGood, requireStr, hd, hr, hn, hx, hv]

theorem withRAB_eq {s : State} {r a b : Operand StrNo} {nr na nb : StrNo} (h : RABIs s r a b nr na nb)
    (k : StrNo → StrNo → StrNo → State → Result) : withRAB r a b s k = k nr na nb s.endWait := by
  obtain ⟨⟨hd, hr, hn⟩, ⟨ha, hna⟩, hb, hnb⟩ := h
  simp [withRAB, State.whenDdrGood, requireStr, hd, hr, hn, ha, hna, hb, hnb]

theorem withRAK_eq {s : State} {r a : Operand StrNo} {key : Operand Key} {nr na : StrNo} {x : Key}
    (h : RAKIs s r a key nr na x) (k : StrNo → StrNo → Key → State → Result) :
    withRAK r a key s k = k nr na x s.endWait := by
  obtain ⟨⟨hd, hr, hn⟩, ⟨ha, hna⟩, hx⟩ := h
  simp [withRAK, State.whenDdrGood, requireStr, hd, hr, hn, ha, hna, hx]

/-- The next states of a command of format F-S. -/
theorem withStr_next {s t : State} {str : Operand StrNo} {k : StrNo → State → Result}
    (h : withStr str s k = .next t) :
    (∃ n, StrIs s str n ∧ k n s.endWait = .next t) ∨
      ((∀ n, resolve strOfDatum str s.cells.t0 ≠ some n) ∧ s.waitTags str.tag true true = .next t) := by
  obtain ⟨hd, h⟩ := State.whenDdrGood_next h
  split at h
  · obtain ⟨hn, h⟩ := requireStr_next h
    exact .inl ⟨_, ⟨hd, ‹_›, hn⟩, h⟩
  · next hn => exact .inr ⟨by simp [hn], h⟩

/-- The next states of a command of format F-SK. -/
theorem withStrKey_next {s t : State} {str : Operand StrNo} {key : Operand Key}
    {k : StrNo → Key → State → Result} (h : withStrKey str key s k = .next t) :
    (∃ n x, StrKeyIs s str key n x ∧ k n x s.endWait = .next t) ∨
      ((∀ n x, ¬(resolve strOfDatum str s.cells.t0 = some n ∧ resolve id key s.cells.t1 = some x)) ∧
        s.waitTags str.tag key.tag true = .next t) := by
  obtain ⟨hd, h⟩ := State.whenDdrGood_next h
  split at h
  · obtain ⟨hn, h⟩ := requireStr_next h
    exact .inl ⟨_, _, ⟨⟨hd, ‹_›, hn⟩, ‹_›⟩, h⟩
  · next hn => exact .inr ⟨fun n x ⟨h1, h2⟩ => hn n x h1 h2, h⟩

/-- The next states of INS. -/
theorem withStrKeyValue_next {s t : State} {str : Operand StrNo} {key : Operand Key} {value : Operand Value}
    {k : StrNo → Key → Value → State → Result} (h : withStrKeyValue str key value s k = .next t) :
    (∃ n x v, StrKeyValueIs s str key value n x v ∧ k n x v s.endWait = .next t) ∨
      ((∀ n x v, ¬(resolve strOfDatum str s.cells.t0 = some n ∧ resolve id key s.cells.t1 = some x ∧
          resolve id value s.cells.t2 = some v)) ∧
        s.waitTags str.tag key.tag value.tag = .next t) := by
  obtain ⟨hd, h⟩ := State.whenDdrGood_next h
  split at h
  · obtain ⟨hn, h⟩ := requireStr_next h
    exact .inl ⟨_, _, _, ⟨⟨⟨hd, ‹_›, hn⟩, ‹_›⟩, ‹_›⟩, h⟩
  · next hn => exact .inr ⟨fun n x v ⟨h1, h2, h3⟩ => hn n x v h1 h2 h3, h⟩

/-- The next states of AND, OR and NOT. -/
theorem withRAB_next {s t : State} {r a b : Operand StrNo} {k : StrNo → StrNo → StrNo → State → Result}
    (h : withRAB r a b s k = .next t) :
    (∃ nr na nb, RABIs s r a b nr na nb ∧ k nr na nb s.endWait = .next t) ∨
      ((∀ nr na nb, ¬(resolve strOfDatum r s.cells.t0 = some nr ∧ resolve strOfDatum a s.cells.t1 = some na ∧
          resolve strOfDatum b s.cells.t2 = some nb)) ∧
        s.waitTags r.tag a.tag b.tag = .next t) := by
  obtain ⟨hd, h⟩ := State.whenDdrGood_next h
  split at h
  · obtain ⟨hr, h⟩ := requireStr_next h
    obtain ⟨ha, h⟩ := requireStr_next h
    obtain ⟨hb, h⟩ := requireStr_next h
    exact .inl ⟨_, _, _, ⟨⟨hd, ‹_›, hr⟩, ⟨‹_›, ha⟩, ‹_›, hb⟩, h⟩
  · next hn => exact .inr ⟨fun a b c ⟨h1, h2, h3⟩ => hn a b c h1 h2 h3, h⟩

/-- The next states of the slices. -/
theorem withRAK_next {s t : State} {r a : Operand StrNo} {key : Operand Key}
    {k : StrNo → StrNo → Key → State → Result} (h : withRAK r a key s k = .next t) :
    (∃ nr na x, RAKIs s r a key nr na x ∧ k nr na x s.endWait = .next t) ∨
      ((∀ nr na x, ¬(resolve strOfDatum r s.cells.t0 = some nr ∧ resolve strOfDatum a s.cells.t1 = some na ∧
          resolve id key s.cells.t2 = some x)) ∧
        s.waitTags r.tag a.tag key.tag = .next t) := by
  obtain ⟨hd, h⟩ := State.whenDdrGood_next h
  split at h
  · obtain ⟨hr, h⟩ := requireStr_next h
    obtain ⟨ha, h⟩ := requireStr_next h
    exact .inl ⟨_, _, _, ⟨⟨hd, ‹_›, hr⟩, ⟨‹_›, ha⟩, ‹_›⟩, h⟩
  · next hn => exact .inr ⟨fun a b c ⟨h1, h2, h3⟩ => hn a b c h1 h2 h3, h⟩

/-- The next states of JT. -/
theorem withJump_next {s t : State} {t0 : Bool} {addr : Operand Nat} {k : Datum → Nat → State → Result}
    (h : withJump t0 addr s k = .next t) :
    (∃ d a, resolve id (branchTag t0) s.cells.t0 = some d ∧
        resolve (addrOfDatum s.params) addr s.cells.t1 = some a ∧ k d a s.endWait = .next t) ∨
      ((∀ d a, ¬(resolve id (branchTag t0) s.cells.t0 = some d ∧
          resolve (addrOfDatum s.params) addr s.cells.t1 = some a)) ∧
        s.waitTags t0 addr.tag true = .next t) := by
  obtain ⟨_, h⟩ := State.whenDdrGood_next h
  split at h
  · exact .inl ⟨_, _, ‹_›, ‹_›, h⟩
  · next hn => exact .inr ⟨fun d a ⟨h1, h2⟩ => hn d a h1 h2, h⟩

/-- A finished command's next state. -/
theorem State.finish_next {s t : State} (h : s.finish = .next t) : t = s.advance := by
  simpa [State.finish, eq_comm] using h

end Sys2Proof.Machine
end

