-- ==== Sys2Proof/Laws/Commands.lean ====
section
/-! SUPPORT. What the execution of a command can do, said once: the effect every command but JT has after its operands
are known, and the cases of an execution that gives a next state (spec/10_state.md R22, R26; spec/44_coprocessor_mode.md
R238; spec/60_exceptions.md R264). -/

namespace Sys2Proof.Machine

/-- What a command does after operand resolution: it delivers one result, changes no structure but `d`, none at all
if it fails in the ways R149 covers, and keeps the structures canonical. -/
structure Effect (q : Bool) (d : Option StrNo) (s u : State) : Prop where
  untouched : Untouched s u
  ip : u.ip = s.ip
  wait : u.wait = s.wait ∧ u.fetched = s.fetched
  delivered : ∃ c k x, Delivered q (causeV c) c k x s u
  others : ∀ n, d ≠ some n → u.structure? n = s.structure? n
  failed : u.last.v = false → u.last.cause ≠ some .eEvicted → u.last.cause ≠ some .eNoSpace →
    ∀ n, u.structure? n = s.structure? n
  structures : s.StructuresOk → u.StructuresOk

theorem State.StructuresOk.congr {s u : State} (h : s.StructuresOk) (hs : ∀ n, u.structure? n = s.structure? n)
    (hp : u.params = s.params) : u.StructuresOk := by
  intro n m hm
  rw [hp]
  exact h n m (by rw [← hs n, hm])

/-- Structures stay canonical when one gets a canonical content. -/
theorem State.StructuresOk.setStructure {s : State} (h : s.StructuresOk) (n : StrNo) (o : Option PairMap)
    (ho : ∀ m, o = some m → m.Sorted ∧ m.length ≤ Config.strVal ∧ (m = [] → s.params.emptyExists = true)) :
    (s.setStructure n o).StructuresOk := by
  intro n' m hm
  simp only [State.setStructure_params]
  by_cases hn : n' = n
  · subst hn
    by_cases hz : n' = 0#3
    · subst hz; simp at hm
    · rw [State.structure?_setStructure_same s hz] at hm
      exact ho m hm
  · rw [State.structure?_setStructure_other s hn] at hm
    exact h n' m hm

theorem State.StructuresOk.storeMap {s : State} (h : s.StructuresOk) (n : StrNo) {m : PairMap} (hs : m.Sorted)
    (hl : m.length ≤ Config.strVal) : (s.storeMap n m).StructuresOk := by
  refine h.setStructure n _ fun m' hm => ?_
  obtain ⟨rfl, he⟩ := contentOf_eq_some hm
  exact ⟨hs, hl, he⟩

theorem State.StructuresOk.redraw {s : State} (h : s.StructuresOk) (n : StrNo) : (s.redraw n).StructuresOk := by
  refine h.setStructure n _ fun m hm => ?_
  cases hd : Config.anyStructure s.draws with
  | none => simp [hd] at hm
  | some l =>
    simp only [hd, Option.bind_some] at hm
    obtain ⟨rfl, he⟩ := contentOf_eq_some hm
    exact ⟨PairMap.ofPairs_sorted l, PairMap.length_ofPairs_le l, he⟩

/-- The map of a structure, empty when it does not exist, is canonical. -/
theorem State.StructuresOk.map {s : State} (h : s.StructuresOk) (n : StrNo) :
    PairMap.Sorted ((s.structure? n).getD []) ∧ ((s.structure? n).getD []).length ≤ Config.strVal := by
  cases hm : s.structure? n with
  | none => exact ⟨List.Pairwise.nil, Nat.zero_le _⟩
  | some m => exact ⟨(h n m hm).1, (h n m hm).2.1⟩

/-- A delivery into a state with the same components. -/
theorem Delivered.transfer {q v : Bool} {c : Cause} {k : Key} {x : Value} {s s' t : State}
    (h : Delivered q v c k x s' t) (hq : s'.s2c = s.s2c) (ho : s'.owr = s.owr) (hd : s'.drFlag = s.drFlag)
    (hc : s'.control0 = s.control0) (hp : s'.params = s.params) : Delivered q v c k x s t := by
  obtain ⟨h1, h2, h3, h4, h5, h6, h7, h8, h9⟩ := h
  constructor <;> simp_all

/-- A command that changes a structure and then delivers. -/
theorem Effect.of_deliver {q v : Bool} {c : Cause} {key : Option Key} {value : Option Value} {d : Option StrNo}
    {s s' : State} (hu : Untouched s s') (hip : s'.ip = s.ip) (hw : s'.wait = s.wait ∧ s'.fetched = s.fetched) (hq : s'.s2c = s.s2c)
    (ho : s'.owr = s.owr) (hd : s'.drFlag = s.drFlag) (hv : v = causeV c)
    (hs : ∀ n, d ≠ some n → s'.structure? n = s.structure? n)
    (hf : v = false → c ≠ .eEvicted → c ≠ .eNoSpace → ∀ n, s'.structure? n = s.structure? n)
    (hok : s.StructuresOk → s'.StructuresOk) : Effect q d s (s'.deliver q v c key value) where
  untouched := hu.trans (s'.deliver_untouched q v c key value)
  ip := by simp [hip]
  wait := by simp [hw]
  delivered := by
    subst hv
    exact ⟨c, _, _, (s'.deliver_spec q _ c key value).transfer hq ho hd hu.control0 hu.params⟩
  others n hn := by simp [hs n hn]
  failed h1 h2 h3 n := by
    simp only [State.deliver_last, ne_eq, Option.some.injEq] at h1 h2 h3
    simp [hf h1 h2 h3 n]
  structures h := (hok h).congr (fun n => by simp) (by simp)

/-- A command that changes no structure and delivers. -/
theorem Effect.of_query {q v : Bool} {c : Cause} {key : Option Key} {value : Option Value} {d : Option StrNo}
    (s : State) (hv : v = causeV c) : Effect q d s (s.deliver q v c key value) :=
  .of_deliver (Untouched.refl s) rfl ⟨rfl, rfl⟩ rfl rfl rfl hv (fun _ _ => rfl) (fun _ _ _ _ => rfl) id

/-- A failing command. -/
theorem Effect.of_error {q : Bool} {c : Cause} {d : Option StrNo} (s : State) (hv : false = causeV c) :
    Effect q d s (s.raiseError q c) := .of_query s hv

theorem State.search_effect (q : Bool) (n : StrNo) (k : Key) (d : Option StrNo) (s : State) :
    Effect q d s (s.search q n k) := by
  unfold State.search
  split
  · exact .of_error s rfl
  · split
    · exact .of_error s rfl
    · exact .of_query s rfl

theorem State.neighbour_effect (pick : PairMap → Key → Option (Key × Value)) (q : Bool) (n : StrNo) (k : Key)
    (d : Option StrNo) (s : State) : Effect q d s (s.neighbour pick q n k) := by
  unfold State.neighbour
  split
  · exact .of_error s rfl
  · split
    · exact .of_error s rfl
    · exact .of_query s rfl

theorem State.neighbourOfKey_effect (pick : PairMap → Key → Option (Key × Value)) (q : Bool) (n : StrNo) (k : Key)
    (d : Option StrNo) (s : State) : Effect q d s (s.neighbourOfKey pick q n k) := by
  unfold State.neighbourOfKey
  split
  · exact .of_error s rfl
  · split
    · exact s.neighbour_effect pick q n k d
    · exact .of_error s rfl

theorem State.count_effect (q : Bool) (n : StrNo) (d : Option StrNo) (s : State) : Effect q d s (s.count q n) := by
  unfold State.count
  split
  all_goals
    exact .of_deliver (s.setPower_untouched _) (by simp) (by simp) (by simp) (by simp) (by simp) rfl
      (fun _ _ => by simp) (fun _ _ _ _ => by simp) fun h => h.congr (fun n => by simp) (by simp)

theorem State.squeeze_effect (q : Bool) (n : StrNo) (d : Option StrNo) (s : State) :
    Effect q d s (s.squeeze q n) := by
  unfold State.squeeze
  split
  · exact .of_error s rfl
  · exact .of_query s rfl

theorem State.deleteKey_effect (q : Bool) (n : StrNo) (k : Key) (s : State) :
    Effect q (some n) s (s.deleteKey q n k) := by
  unfold State.deleteKey
  split
  · exact .of_error s rfl
  · next m hm =>
    split
    · exact .of_error s rfl
    · refine .of_deliver (s.storeMap_untouched n _) (by simp) (by simp) (by simp) (by simp) (by simp) rfl
        (fun n' hn => State.structure?_storeMap_other s (by rintro rfl; exact hn rfl) _)
        (fun h => by simp at h) fun h => ?_
      obtain ⟨h1, h2, -⟩ := h n m hm
      exact h.storeMap n (PairMap.erase_sorted h1 k) ((PairMap.length_erase_le m k).trans h2)

theorem State.deleteStructure_effect (q : Bool) (n : StrNo) (s : State) :
    Effect q (some n) s (s.deleteStructure q n) := by
  unfold State.deleteStructure
  split
  · exact .of_error s rfl
  · refine .of_deliver (s.setStructure_untouched n _) (by simp) (by simp) (by simp) (by simp) (by simp) rfl
      (fun n' hn => State.structure?_setStructure_other s (by rintro rfl; exact hn rfl) _)
      (fun h => by simp at h) fun h => h.setStructure n _ (by simp)

theorem Effect.of_popIns {q : Bool} {d : Option StrNo} {s u : State} (h : Effect q d s.popInsAnswer u) :
    Effect q d s u where
  untouched := s.popInsAnswer_untouched.trans h.untouched
  ip := by simp [h.ip]
  wait := by simp [h.wait]
  delivered := by
    obtain ⟨c, k, x, hd⟩ := h.delivered
    exact ⟨c, k, x, hd.transfer (by simp) (by simp) (by simp) (by simp) (by simp)⟩
  others n hn := by simp [h.others n hn]
  failed h1 h2 h3 n := by simp [h.failed h1 h2 h3 n]
  structures hs := h.structures (hs.congr (fun n => by simp) (by simp))

theorem Effect.of_popSetop {q : Bool} {d : Option StrNo} {s u : State} (h : Effect q d s.popSetopAnswer u) :
    Effect q d s u where
  untouched := s.popSetopAnswer_untouched.trans h.untouched
  ip := by simp [h.ip]
  wait := by simp [h.wait]
  delivered := by
    obtain ⟨c, k, x, hd⟩ := h.delivered
    exact ⟨c, k, x, hd.transfer (by simp) (by simp) (by simp) (by simp) (by simp)⟩
  others n hn := by simp [h.others n hn]
  failed h1 h2 h3 n := by simp [h.failed h1 h2 h3 n]
  structures hs := h.structures (hs.congr (fun n => by simp) (by simp))

/-- A map with a pair put in has a greatest pair. -/
theorem PairMap.greatest_put_isSome (m : PairMap) (k : Key) (v : Value) :
    ∃ p, PairMap.greatest (m.put k v) = some p := by
  cases h : PairMap.greatest (m.put k v) with
  | none => exact absurd (by simpa [PairMap.greatest] using h) (PairMap.put_ne_nil m k v)
  | some p => exact ⟨p, rfl⟩

/-- The map INS leaves after an eviction is no larger than the one it found. -/
theorem PairMap.length_erase_greatest_put {m : PairMap} (hm : m.Sorted) (k : Key) (v : Value) {p : Key × Value}
    (hp : PairMap.greatest (m.put k v) = some p) : (PairMap.erase (m.put k v) p.1).length ≤ m.length := by
  have hs := PairMap.put_sorted hm k v
  have hg := PairMap.greatest_spec hs hp
  have := PairMap.length_erase_of_has hs ((PairMap.has_iff_mem p.1).mpr ⟨p, hg.1, rfl⟩)
  have := PairMap.length_put_le m k v
  omega

theorem State.insert_effect (q : Bool) (n : StrNo) (k : Key) (v : Value) (s : State) :
    Effect q (some n) s (s.insert q n k v) := by
  unfold State.insert
  simp only
  split
  · next hk =>
    refine .of_deliver (s.setStructure_untouched n _) (by simp) (by simp) (by simp) (by simp) (by simp) rfl
      (fun n' hn => State.structure?_setStructure_other s (by rintro rfl; exact hn rfl) _)
      (fun h => by simp at h) fun h => h.setStructure n _ ?_
    intro m hm
    obtain rfl := Option.some.inj hm
    obtain ⟨h1, h2⟩ := h.map n
    exact ⟨PairMap.put_sorted h1 k v, by rw [PairMap.length_put_of_has h1 hk]; exact h2,
      fun e => absurd e (PairMap.put_ne_nil _ k v)⟩
  · unfold State.insertNew
    simp only
    have hm : ∀ h : s.StructuresOk, s.popInsAnswer.StructuresOk := fun h => h.congr (fun n => by simp) (by simp)
    split
    · next ha =>
      refine .of_popIns (.of_deliver (State.setStructure_untouched _ n _) (by simp) (by simp) (by simp) (by simp)
        (by simp) rfl (fun n' hn => State.structure?_setStructure_other _ (by rintro rfl; exact hn rfl) _)
        (fun h => by simp at h) fun h => h.setStructure n _ ?_)
      intro m hm
      obtain rfl := Option.some.inj hm
      obtain ⟨h1, -⟩ := h.map n
      simp only [State.structure?_popInsAnswer] at h1
      have := State.insAnswer_ok ha
      have := PairMap.length_put_le ((s.structure? n).getD []) k v
      exact ⟨PairMap.put_sorted h1 k v, by omega, fun e => absurd e (PairMap.put_ne_nil _ k v)⟩
    · unfold State.insertEvicting
      obtain ⟨p, hp⟩ := PairMap.greatest_put_isSome ((s.structure? n).getD []) k v
      simp only [hp]
      refine .of_popIns (.of_deliver (State.storeMap_untouched _ n _) (by simp) (by simp) (by simp) (by simp)
        (by simp) rfl (fun n' hn => State.structure?_storeMap_other _ (by rintro rfl; exact hn rfl) _)
        (fun _ h => by simp at h) fun h => ?_)
      obtain ⟨h1, h2⟩ := h.map n
      simp only [State.structure?_popInsAnswer] at h1 h2
      exact h.storeMap n (PairMap.erase_sorted (PairMap.put_sorted h1 k v) _)
        ((PairMap.length_erase_greatest_put h1 k v hp).trans h2)
    · exact .of_popIns (.of_error _ rfl)

/-- INS without space changes no structure (R156). -/
theorem State.insert_noSpace {q : Bool} {n : StrNo} {k : Key} {v : Value} {s : State}
    (h : (s.insert q n k v).last.cause = some .eNoSpace) (n' : StrNo) :
    (s.insert q n k v).structure? n' = s.structure? n' := by
  revert h
  unfold State.insert
  simp only
  split
  · simp
  · unfold State.insertNew
    simp only
    split
    · simp
    · unfold State.insertEvicting
      obtain ⟨p, hp⟩ := PairMap.greatest_put_isSome ((s.structure? n).getD []) k v
      simp [hp]
    · simp

theorem State.storeResult_effect (q : Bool) (r : StrNo) (m : PairMap) (s : State) (hm : s.StructuresOk → m.Sorted) :
    Effect q (some r) s (s.storeResult q r m) := by
  unfold State.storeResult
  simp only
  split
  · next ha =>
    have hl := State.setopAnswer_ok ha
    refine .of_popSetop (.of_deliver (State.storeMap_untouched _ r _) (by simp) (by simp) (by simp) (by simp)
      (by simp) rfl (fun n' hn => State.structure?_storeMap_other _ (by rintro rfl; exact hn rfl) _)
      (fun h => by simp at h) fun h => h.storeMap r (hm ?_) hl)
    exact h.congr (fun n => by simp) (by simp)
  · exact .of_popSetop (.of_deliver (State.redraw_untouched _ r) (by simp) (by simp) (by simp) (by simp)
      (by simp) rfl (fun n' hn => State.structure?_redraw_other _ (by rintro rfl; exact hn rfl))
      (fun _ _ h => by simp at h) fun h => h.redraw r)

/-- The error of a set operation or slice is a failure. -/
theorem State.buildError_cause {s : State} {a b : Bool} {c : Cause} (h : s.buildError a b = some c) :
    (a = true ∧ c = .eRExists) ∨ (b = true ∧ c = .eNoStruct) := by
  unfold State.buildError at h
  split at h <;> simp at h
  · exact .inl ⟨rfl, h.symm⟩
  · exact .inr ⟨rfl, h.symm⟩
  · split at h
    · exact .inl ⟨rfl, h.symm⟩
    · exact .inr ⟨rfl, h.symm⟩

theorem State.buildError_eq_none {s : State} {a b : Bool} : s.buildError a b = none ↔ a = false ∧ b = false := by
  cases a <;> cases b <;> simp [State.buildError]

theorem State.combine_effect (f : PairMap → PairMap → PairMap) (q : Bool) (r a b : StrNo) (s : State)
    (hf : ∀ x y : PairMap, x.Sorted → y.Sorted → (f x y).Sorted) :
    Effect q (some r) s (s.combine f q r a b) := by
  unfold State.combine
  split
  · next c hc =>
    rcases State.buildError_cause hc with ⟨-, rfl⟩ | ⟨-, rfl⟩ <;> exact .of_error s rfl
  · exact s.storeResult_effect q r _ fun h => hf _ _ (h.map a).1 (h.map b).1

theorem State.sliceInto_effect (sel : Key → Bool) (q : Bool) (r a : StrNo) (s : State) :
    Effect q (some r) s (s.sliceInto sel q r a) := by
  unfold State.sliceInto
  split
  · next c hc =>
    rcases State.buildError_cause hc with ⟨-, rfl⟩ | ⟨-, rfl⟩ <;> exact .of_error s rfl
  · exact s.storeResult_effect q r _ fun h => PairMap.slice_sorted (h.map a).1 sel

theorem State.andFn_sorted (s : State) (x y : PairMap) (hx : x.Sorted) (_ : y.Sorted) :
    (s.andFn x y).Sorted := by
  unfold State.andFn
  cases s.params.pairing
  · exact PairMap.union_sorted hx _ y
  · exact PairMap.inter_sorted hx _ y

theorem State.orFn_sorted (s : State) (x y : PairMap) (hx : x.Sorted) (_ : y.Sorted) : (s.orFn x y).Sorted := by
  unfold State.orFn
  cases s.params.pairing
  · exact PairMap.inter_sorted hx _ y
  · exact PairMap.union_sorted hx _ y

/-- MIN and MAX: an effect, or the refusal of U6. -/
theorem State.extremum_next {pick : PairMap → Option (Key × Value)} {q : Bool} {n : StrNo} {s t : State}
    (h : s.extremum pick q n = .next t) (d : Option StrNo) : ∃ u, Effect q d s u ∧ t = u.advance := by
  unfold State.extremum at h
  split at h
  · refine ⟨_, ?_, State.finish_next h⟩
    exact .of_error s rfl
  · split at h
    · simp at h
    · refine ⟨_, ?_, State.finish_next h⟩
      exact .of_query s rfl

/-! ### Execution -/

theorem resolve_isSome {α : Type} (f : Datum → α) (o : Operand α) (c : TagCell) :
    (∃ v, resolve f o c = some v) ↔ known o.tag c = true := by
  cases o <;> cases c <;> simp [resolve, known, Operand.tag]

theorem known_of_resolve {α : Type} {f : Datum → α} {o : Operand α} {c : TagCell} {v : α}
    (h : resolve f o c = some v) : known o.tag c = true := (resolve_isSome f o c).mp ⟨v, h⟩

theorem known_branchTag (t0 : Bool) : (branchTag t0).tag = t0 := by cases t0 <;> rfl

@[simp] theorem known_true (c : TagCell) : known true c = true := rfl

/-- An operand that is not known is awaited after the wait begins. -/
theorem hold_isAwaited {tag : Bool} {c : TagCell} (h : known tag c = false) : (c.hold tag).isAwaited = true := by
  cases tag <;> cases c <;> simp_all [known, TagCell.hold, TagCell.isAwaited]

/-- A command that does not get its operands waits (R213). -/
theorem State.waitTags_of_not_ready {s t : State} {i : Instr}
    (h : s.waitTags i.tags.1 i.tags.2.1 i.tags.2.2 = .next t) (hr : i.ready s = false) :
    s.issuer = .misd ∧ t = { s with wait := t.wait } ∧ t.wait.blocked = true ∧
      t.wait = ⟨s.wait.t0.hold i.tags.1, s.wait.t1.hold i.tags.2.1, s.wait.t2.hold i.tags.2.2⟩ := by
  obtain ⟨hi, rfl⟩ := State.waitTags_next h
  refine ⟨hi, rfl, ?_, rfl⟩
  simp only [Instr.ready, State.cells, hi, Bool.and_eq_false_iff] at hr
  simp only [TagWait.blocked, Bool.or_eq_true]
  rcases hr with (hr | hr) | hr
  · exact .inl (.inl (hold_isAwaited hr))
  · exact .inl (.inr (hold_isAwaited hr))
  · exact .inr (hold_isAwaited hr)

/-- An execution of a command but JT that gives a next state: the MISD stream began to wait, or the command had its
effect and its stream went on. -/
inductive Executed (i : Instr) (s t : State) : Prop where
  | waiting (h : i.ready s = false) (w : s.waitTags i.tags.1 i.tags.2.1 i.tags.2.2 = .next t)
  | completed (h : i.ready s = true) (u : State)
      (e : Effect i.q (i.destination.bind fun o => resolve strOfDatum o s.cells.t0) s.endWait u) (ht : t = u.advance)

theorem withStr_executed {i : Instr} {s t : State} {str : Operand StrNo} {k : StrNo → State → Result}
    (h : withStr str s k = .next t) (ht : i.tags = (str.tag, true, true))
    (hk : ∀ n u, resolve strOfDatum str s.cells.t0 = some n → k n s.endWait = .next u →
      ∃ v, Effect i.q (i.destination.bind fun o => resolve strOfDatum o s.cells.t0) s.endWait v ∧ u = v.advance) :
    Executed i s t := by
  rcases withStr_next h with ⟨n, ⟨_, hr, _⟩, hn⟩ | ⟨hn, hw⟩
  · obtain ⟨v, he, hv⟩ := hk n t hr hn
    exact .completed (by simp [Instr.ready, ht, known_of_resolve hr]) v he hv
  · refine .waiting ?_ (by rw [ht]; exact hw)
    have : known str.tag s.cells.t0 = false := by
      by_contra hc
      obtain ⟨v, hv⟩ := (resolve_isSome strOfDatum str s.cells.t0).mpr (by simpa using hc)
      exact hn v hv
    simp [Instr.ready, ht, this]

theorem withStrKey_executed {i : Instr} {s t : State} {str : Operand StrNo} {key : Operand Key}
    {k : StrNo → Key → State → Result} (h : withStrKey str key s k = .next t)
    (ht : i.tags = (str.tag, key.tag, true))
    (hk : ∀ n x u, resolve strOfDatum str s.cells.t0 = some n → k n x s.endWait = .next u →
      ∃ v, Effect i.q (i.destination.bind fun o => resolve strOfDatum o s.cells.t0) s.endWait v ∧ u = v.advance) :
    Executed i s t := by
  rcases withStrKey_next h with ⟨n, x, ⟨⟨_, hr, _⟩, hx⟩, hn⟩ | ⟨hn, hw⟩
  · obtain ⟨v, he, hv⟩ := hk n x t hr hn
    exact .completed (by simp [Instr.ready, ht, known_of_resolve hr, known_of_resolve hx]) v he hv
  · refine .waiting ?_ (by rw [ht]; exact hw)
    by_contra hc
    simp only [Instr.ready, ht, Bool.not_eq_false, Bool.and_eq_true] at hc
    obtain ⟨n, hn'⟩ := (resolve_isSome strOfDatum str s.cells.t0).mpr hc.1.1
    obtain ⟨x, hx⟩ := (resolve_isSome id key s.cells.t1).mpr hc.1.2
    exact hn n x ⟨hn', hx⟩

theorem withStrKeyValue_executed {i : Instr} {s t : State} {str : Operand StrNo} {key : Operand Key}
    {value : Operand Value} {k : StrNo → Key → Value → State → Result}
    (h : withStrKeyValue str key value s k = .next t) (ht : i.tags = (str.tag, key.tag, value.tag))
    (hk : ∀ n x y u, resolve strOfDatum str s.cells.t0 = some n → k n x y s.endWait = .next u →
      ∃ v, Effect i.q (i.destination.bind fun o => resolve strOfDatum o s.cells.t0) s.endWait v ∧ u = v.advance) :
    Executed i s t := by
  rcases withStrKeyValue_next h with ⟨n, x, y, ⟨⟨⟨_, hr, _⟩, hx⟩, hy⟩, hn⟩ | ⟨hn, hw⟩
  · obtain ⟨v, he, hv⟩ := hk n x y t hr hn
    exact .completed (by simp [Instr.ready, ht, known_of_resolve hr, known_of_resolve hx, known_of_resolve hy]) v
      he hv
  · refine .waiting ?_ (by rw [ht]; exact hw)
    by_contra hc
    simp only [Instr.ready, ht, Bool.not_eq_false, Bool.and_eq_true] at hc
    obtain ⟨n, hn'⟩ := (resolve_isSome strOfDatum str s.cells.t0).mpr hc.1.1
    obtain ⟨x, hx⟩ := (resolve_isSome id key s.cells.t1).mpr hc.1.2
    obtain ⟨y, hy⟩ := (resolve_isSome id value s.cells.t2).mpr hc.2
    exact hn n x y ⟨hn', hx, hy⟩

theorem withRAB_executed {i : Instr} {s t : State} {r a b : Operand StrNo}
    {k : StrNo → StrNo → StrNo → State → Result} (h : withRAB r a b s k = .next t)
    (ht : i.tags = (r.tag, a.tag, b.tag))
    (hk : ∀ nr na nb u, resolve strOfDatum r s.cells.t0 = some nr → k nr na nb s.endWait = .next u →
      ∃ v, Effect i.q (i.destination.bind fun o => resolve strOfDatum o s.cells.t0) s.endWait v ∧ u = v.advance) :
    Executed i s t := by
  rcases withRAB_next h with ⟨n, x, y, ⟨⟨_, hr, _⟩, ⟨hx, _⟩, hy, _⟩, hn⟩ | ⟨hn, hw⟩
  · obtain ⟨v, he, hv⟩ := hk n x y t hr hn
    exact .completed (by simp [Instr.ready, ht, known_of_resolve hr, known_of_resolve hx, known_of_resolve hy]) v
      he hv
  · refine .waiting ?_ (by rw [ht]; exact hw)
    by_contra hc
    simp only [Instr.ready, ht, Bool.not_eq_false, Bool.and_eq_true] at hc
    obtain ⟨n, hn'⟩ := (resolve_isSome strOfDatum r s.cells.t0).mpr hc.1.1
    obtain ⟨x, hx⟩ := (resolve_isSome strOfDatum a s.cells.t1).mpr hc.1.2
    obtain ⟨y, hy⟩ := (resolve_isSome strOfDatum b s.cells.t2).mpr hc.2
    exact hn n x y ⟨hn', hx, hy⟩

theorem withRAK_executed {i : Instr} {s t : State} {r a : Operand StrNo} {key : Operand Key}
    {k : StrNo → StrNo → Key → State → Result} (h : withRAK r a key s k = .next t)
    (ht : i.tags = (r.tag, a.tag, key.tag))
    (hk : ∀ nr na x u, resolve strOfDatum r s.cells.t0 = some nr → k nr na x s.endWait = .next u →
      ∃ v, Effect i.q (i.destination.bind fun o => resolve strOfDatum o s.cells.t0) s.endWait v ∧ u = v.advance) :
    Executed i s t := by
  rcases withRAK_next h with ⟨n, x, y, ⟨⟨_, hr, _⟩, ⟨hx, _⟩, hy⟩, hn⟩ | ⟨hn, hw⟩
  · obtain ⟨v, he, hv⟩ := hk n x y t hr hn
    exact .completed (by simp [Instr.ready, ht, known_of_resolve hr, known_of_resolve hx, known_of_resolve hy]) v
      he hv
  · refine .waiting ?_ (by rw [ht]; exact hw)
    by_contra hc
    simp only [Instr.ready, ht, Bool.not_eq_false, Bool.and_eq_true] at hc
    obtain ⟨n, hn'⟩ := (resolve_isSome strOfDatum r s.cells.t0).mpr hc.1.1
    obtain ⟨x, hx⟩ := (resolve_isSome strOfDatum a s.cells.t1).mpr hc.1.2
    obtain ⟨y, hy⟩ := (resolve_isSome id key s.cells.t2).mpr hc.2
    exact hn n x y ⟨hn', hx, hy⟩

/-- What the execution of a command but JT can do. -/
theorem exec_executed {i : Instr} {s t : State} (hj : i.isJump = false) (h : exec i s = .next t) :
    Executed i s t := by
  cases i with
  | del q str key =>
    simp only [exec, execDel] at h
    refine withStrKey_executed h rfl fun n x u hr hn => ⟨_, ?_, State.finish_next hn⟩
    simpa [Instr.destination, Instr.q, hr] using State.deleteKey_effect q n x s.endWait
  | ins q str key value =>
    simp only [exec, execIns] at h
    refine withStrKeyValue_executed h rfl fun n x y u hr hn => ⟨_, ?_, State.finish_next hn⟩
    simpa [Instr.destination, Instr.q, hr] using State.insert_effect q n x y s.endWait
  | min q str =>
    simp only [exec, execMin] at h
    exact withStr_executed h rfl fun n u _ hn => State.extremum_next hn _
  | max q str =>
    simp only [exec, execMax] at h
    exact withStr_executed h rfl fun n u _ hn => State.extremum_next hn _
  | srch q str key =>
    simp only [exec, execSrch] at h
    exact withStrKey_executed h rfl fun n x u _ hn => ⟨_, State.search_effect q n x _ _, State.finish_next hn⟩
  | sq q str =>
    simp only [exec, execSq] at h
    exact withStr_executed h rfl fun n u _ hn => ⟨_, State.squeeze_effect q n _ _, State.finish_next hn⟩
  | cnt q str =>
    simp only [exec, execCnt] at h
    exact withStr_executed h rfl fun n u _ hn => ⟨_, State.count_effect q n _ _, State.finish_next hn⟩
  | or q r a b =>
    simp only [exec, execOr] at h
    refine withRAB_executed h rfl fun nr na nb u hr hn => ⟨_, ?_, State.finish_next hn⟩
    simpa [Instr.destination, Instr.q, hr] using
      State.combine_effect _ q nr na nb s.endWait (State.orFn_sorted s.endWait)
  | and q r a b =>
    simp only [exec, execAnd] at h
    refine withRAB_executed h rfl fun nr na nb u hr hn => ⟨_, ?_, State.finish_next hn⟩
    simpa [Instr.destination, Instr.q, hr] using
      State.combine_effect _ q nr na nb s.endWait (State.andFn_sorted s.endWait)
  | not q r a b =>
    simp only [exec, execNot] at h
    refine withRAB_executed h rfl fun nr na nb u hr hn => ⟨_, ?_, State.finish_next hn⟩
    simpa [Instr.destination, Instr.q, hr] using
      State.combine_effect _ q nr na nb s.endWait fun x y hx _ => PairMap.diff_sorted hx y
  | lseq q r a key =>
    simp only [exec, execLseq] at h
    refine withRAK_executed h rfl fun nr na x u hr hn => ⟨_, ?_, State.finish_next hn⟩
    simpa [Instr.destination, Instr.q, hr] using State.sliceInto_effect _ q nr na s.endWait
  | ls q r a key =>
    simp only [exec, execLs] at h
    refine withRAK_executed h rfl fun nr na x u hr hn => ⟨_, ?_, State.finish_next hn⟩
    simpa [Instr.destination, Instr.q, hr] using State.sliceInto_effect _ q nr na s.endWait
  | greq q r a key =>
    simp only [exec, execGreq] at h
    refine withRAK_executed h rfl fun nr na x u hr hn => ⟨_, ?_, State.finish_next hn⟩
    simpa [Instr.destination, Instr.q, hr] using State.sliceInto_effect _ q nr na s.endWait
  | gr q r a key =>
    simp only [exec, execGr] at h
    refine withRAK_executed h rfl fun nr na x u hr hn => ⟨_, ?_, State.finish_next hn⟩
    simpa [Instr.destination, Instr.q, hr] using State.sliceInto_effect _ q nr na s.endWait
  | dels q str =>
    simp only [exec, execDels] at h
    refine withStr_executed h rfl fun n u hr hn => ⟨_, ?_, State.finish_next hn⟩
    simpa [Instr.destination, Instr.q, hr] using State.deleteStructure_effect q n s.endWait
  | next q str key =>
    simp only [exec, execNext] at h
    exact withStrKey_executed h rfl fun n x u _ hn => ⟨_, State.neighbourOfKey_effect _ q n x _ _, State.finish_next hn⟩
  | prev q str key =>
    simp only [exec, execPrev] at h
    exact withStrKey_executed h rfl fun n x u _ hn => ⟨_, State.neighbourOfKey_effect _ q n x _ _, State.finish_next hn⟩
  | nsm q str key =>
    simp only [exec, execNsm] at h
    exact withStrKey_executed h rfl fun n x u _ hn => ⟨_, State.neighbour_effect _ q n x _ _, State.finish_next hn⟩
  | ngr q str key =>
    simp only [exec, execNgr] at h
    exact withStrKey_executed h rfl fun n x u _ hn => ⟨_, State.neighbour_effect _ q n x _ _, State.finish_next hn⟩
  | jt t0 addr => simp [Instr.isJump] at hj

/-- What the execution of JT can do (R216, R218). -/
theorem execJt_next {s t : State} {t0 : Bool} {addr : Operand Nat} (h : execJt t0 addr s = .next t) :
    (s.issuer = .coprocessor ∧ t = s) ∨
    (s.issuer = .misd ∧ (Instr.jt t0 addr).ready s = true ∧ ∃ a, t = { s with ip := a, wait := TagWait.idle, fetched := none }) ∨
    (s.issuer = .misd ∧ (Instr.jt t0 addr).ready s = false ∧ s.waitTags t0 addr.tag true = .next t) := by
  unfold execJt at h
  cases hi : s.issuer with
  | coprocessor => rw [hi] at h; exact .inl ⟨rfl, (Host.Outcome.next.inj h).symm⟩
  | misd =>
    simp only [hi] at h
    right
    rcases withJump_next h with ⟨d, a, hd, ha, hb⟩ | ⟨hn, hw⟩
    · left
      have h0 := known_of_resolve hd
      rw [known_branchTag] at h0
      refine ⟨rfl, by simp [Instr.ready, Instr.tags, h0, known_of_resolve ha], ?_⟩
      unfold State.branch at hb
      simp only [State.endWait, hi] at hb
      split at hb
      · exact ⟨a, (Host.Outcome.next.inj hb).symm⟩
      · split at hb
        · exact ⟨s.ip + 1, (Host.Outcome.next.inj hb).symm⟩
        · simp at hb
    · right
      refine ⟨rfl, ?_, hw⟩
      by_contra hc
      simp only [Instr.ready, Instr.tags, Bool.not_eq_false, Bool.and_eq_true] at hc
      obtain ⟨d, hd⟩ := (resolve_isSome id (branchTag t0) s.cells.t0).mpr (by rw [known_branchTag]; exact hc.1.1)
      obtain ⟨a, ha⟩ := (resolve_isSome (addrOfDatum s.params) addr s.cells.t1).mpr hc.1.2
      exact hn d a ⟨hd, ha⟩

end Sys2Proof.Machine
end

