-- ==== Sys2Proof/Laws/Fields.lean ====
section
/-! SUPPORT. What a field of a slot reads after fields are placed (spec/30_encoding.md R112). -/

namespace Sys2Proof

/-- A field of a combination is the combination of the fields. -/
theorem field_or (o : BitOrder) (off w : Nat) (a b : Slot) :
    field o off w (a ||| b) = field o off w a ||| field o off w b := by
  apply BitVec.eq_of_getLsbD_eq
  intro i hi
  simp [field, Bool.and_or_distrib_left]

/-- A field lies inside the slot. -/
theorem fieldLo_add_le (o : BitOrder) (off w : Nat) (h : off + w ≤ 144) : fieldLo o off w + w ≤ 144 := by
  cases o <;> simp [fieldLo, Config.cmdMisdVal] <;> omega

/-- Disjoint fields lie in disjoint slot bits, in either bit order. -/
theorem fieldLo_disjoint (o : BitOrder) (off w off' w' : Nat) (h : off + w ≤ 144) (h' : off' + w' ≤ 144)
    (hd : off + w ≤ off' ∨ off' + w' ≤ off) :
    fieldLo o off w + w ≤ fieldLo o off' w' ∨ fieldLo o off' w' + w' ≤ fieldLo o off w := by
  cases o <;> simp [fieldLo, Config.cmdMisdVal] <;> omega

/-- A field reads what was placed in it. -/
theorem field_place_same (o : BitOrder) (off : Nat) {w : Nat} (v : BitVec w) (h : off + w ≤ 144) :
    field o off w (place o off v) = v := by
  apply BitVec.eq_of_getLsbD_eq
  intro i hi
  have hlo := fieldLo_add_le o off w h
  simp [field, place, Config.cmdMisdVal, hi, show fieldLo o off w + i < 144 by omega]

/-- A field reads 0 where only a disjoint field was placed. -/
theorem field_place_disjoint (o : BitOrder) (off off' w' : Nat) {w : Nat} (v : BitVec w)
    (h : off + w ≤ 144) (h' : off' + w' ≤ 144) (hd : off + w ≤ off' ∨ off' + w' ≤ off) :
    field o off' w' (place o off v) = 0 := by
  apply BitVec.eq_of_getLsbD_eq
  intro i hi
  have hlo := fieldLo_disjoint o off w off' w' h h' hd
  have hv : w ≤ fieldLo o off' w' + i - fieldLo o off w ∨ fieldLo o off' w' + i < fieldLo o off w := by omega
  rcases hv with hv | hv
  · simp [field, place, BitVec.getLsbD_extractLsb', BitVec.getLsbD_shiftLeft, BitVec.getLsbD_setWidth,
      BitVec.getLsbD_of_ge v _ hv]
  · simp [field, place, BitVec.getLsbD_extractLsb', BitVec.getLsbD_shiftLeft, BitVec.getLsbD_setWidth, hv]

/-- A one-bit field of a combination. -/
theorem bitAt_or (o : BitOrder) (off : Nat) (a b : Slot) :
    bitAt o off (a ||| b) = (bitAt o off a || bitAt o off b) := by
  simp only [bitAt, field_or]
  generalize field o off 1 a = x
  generalize field o off 1 b = y
  revert x y
  decide

/-- A one-bit field reads what was placed in it. -/
theorem bitAt_placeBit_same (o : BitOrder) (off : Nat) (b : Bool) (h : off + 1 ≤ 144) :
    bitAt o off (placeBit o off b) = b := by
  simp only [bitAt, placeBit, field_place_same o off _ h]
  cases b <;> rfl

/-- A one-bit field reads 0 where only a disjoint field was placed. -/
theorem bitAt_place_disjoint (o : BitOrder) (off off' : Nat) {w : Nat} (v : BitVec w)
    (h : off + w ≤ 144) (h' : off' + 1 ≤ 144) (hd : off + w ≤ off' ∨ off' + 1 ≤ off) :
    bitAt o off' (place o off v) = false := by
  simp [bitAt, field_place_disjoint o off off' 1 v h h' hd]

/-- The same for two one-bit fields. -/
theorem bitAt_placeBit_disjoint (o : BitOrder) (off off' : Nat) (b : Bool)
    (h : off + 1 ≤ 144) (h' : off' + 1 ≤ 144) (hd : off ≠ off') :
    bitAt o off' (placeBit o off b) = false :=
  bitAt_place_disjoint o off off' _ h h' (by omega)

/-- A field reads 0 where only a disjoint one-bit field was placed. -/
theorem field_placeBit_disjoint (o : BitOrder) (off off' w' : Nat) (b : Bool)
    (h : off + 1 ≤ 144) (h' : off' + w' ≤ 144) (hd : off + 1 ≤ off' ∨ off' + w' ≤ off) :
    field o off' w' (placeBit o off b) = 0 :=
  field_place_disjoint o off off' w' _ h h' hd

/-- An operand is recovered from its tag and its field. -/
theorem operandOf_tag_fieldOr {α : Type} (zero : α) (x : Operand α) :
    operandOf x.tag (x.fieldOr zero) = x := by
  cases x <;> rfl

end Sys2Proof
end

