-- ==== Sys2Proof/Laws/Encoding.lean ====
section
/-! SUPPORT. What the decoder's fields read from an encoded command, format by format (spec/30_encoding.md R111
to R114). -/

namespace Sys2Proof

/-- A slot that holds nothing in the fields at and after offset `lo`. -/
theorem field_header (o : BitOrder) (opc : BitVec 5) (t2 t1 t0 q : Bool) (off w : Nat) (h : 9 ≤ off)
    (h' : off + w ≤ 144) : field o off w (header o opc t2 t1 t0 q) = 0 := by
  simp only [header, field_or]
  rw [field_place_disjoint o 0 off w opc (by omega) h' (by omega),
    field_placeBit_disjoint o 5 off w t2 (by omega) h' (by omega),
    field_placeBit_disjoint o 6 off w t1 (by omega) h' (by omega),
    field_placeBit_disjoint o 7 off w t0 (by omega) h' (by omega),
    field_placeBit_disjoint o 8 off w q (by omega) h' (by omega)]
  simp

theorem opc_header (o : BitOrder) (opc : BitVec 5) (t2 t1 t0 q : Bool) :
    field o 0 5 (header o opc t2 t1 t0 q) = opc := by
  simp only [header, field_or]
  rw [field_place_same o 0 opc (by omega),
    field_placeBit_disjoint o 5 0 5 t2 (by omega) (by omega) (by omega),
    field_placeBit_disjoint o 6 0 5 t1 (by omega) (by omega) (by omega),
    field_placeBit_disjoint o 7 0 5 t0 (by omega) (by omega) (by omega),
    field_placeBit_disjoint o 8 0 5 q (by omega) (by omega) (by omega)]
  simp

theorem bits_header (o : BitOrder) (opc : BitVec 5) (t2 t1 t0 q : Bool) :
    bitAt o 5 (header o opc t2 t1 t0 q) = t2 ∧ bitAt o 6 (header o opc t2 t1 t0 q) = t1 ∧
      bitAt o 7 (header o opc t2 t1 t0 q) = t0 ∧ bitAt o 8 (header o opc t2 t1 t0 q) = q := by
  simp only [header, bitAt_or]
  refine ⟨?_, ?_, ?_, ?_⟩ <;>
    simp [bitAt_placeBit_same, bitAt_placeBit_disjoint, bitAt_place_disjoint]

/-- The header fields of a slot whose other fields start at offset 9 or later. -/
theorem header_or_place (o : BitOrder) (slot : Slot) (off : Nat) {w : Nat} (v : BitVec w) (h : 9 ≤ off)
    (h' : off + w ≤ 144) :
    field o 0 5 (slot ||| place o off v) = field o 0 5 slot ∧
      ∀ b, b < 9 → bitAt o b (slot ||| place o off v) = bitAt o b slot := by
  constructor
  · rw [field_or, field_place_disjoint o off 0 5 v h' (by omega) (by omega)]; simp
  · intro b hb
    rw [bitAt_or, bitAt_place_disjoint o off b v h' (by omega) (by omega)]; simp

/-- What the decoder reads from format F-S. -/
theorem decode_fields_S (o : BitOrder) (opc : BitVec 5) (q t2 : Bool) (str : Operand StrNo) :
    field o 0 5 (encodeS o opc q t2 str) = opc ∧ bitAt o 8 (encodeS o opc q t2 str) = q ∧
      operand0 o (encodeS o opc q t2 str) = str := by
  obtain ⟨-, -, h7, h8⟩ := bits_header o opc t2 true str.tag q
  obtain ⟨g1, g2⟩ := header_or_place o (header o opc t2 true str.tag q) 13 (str.fieldOr 0) (by omega) (by omega)
  refine ⟨?_, ?_, ?_⟩
  · rw [encodeS, g1, opc_header]
  · rw [encodeS, g2 8 (by omega), h8]
  · rw [operand0, encodeS, g2 7 (by omega), h7, field_or, field_header _ _ _ _ _ _ _ _ (by omega) (by omega),
      field_place_same o 13 _ (by omega)]
    simpa using operandOf_tag_fieldOr 0#3 str

/-- What the decoder reads from format F-SK. -/
theorem decode_fields_SK (o : BitOrder) (opc : BitVec 5) (q : Bool) (str : Operand StrNo) (key : Operand Key) :
    field o 0 5 (encodeSK o opc q str key) = opc ∧ bitAt o 8 (encodeSK o opc q str key) = q ∧
      operand0 o (encodeSK o opc q str key) = str ∧ operandKey o (encodeSK o opc q str key) = key := by
  obtain ⟨-, h6, h7, h8⟩ := bits_header o opc true key.tag str.tag q
  obtain ⟨g1, g2⟩ := header_or_place o (header o opc true key.tag str.tag q) 13 (str.fieldOr 0) (by omega) (by omega)
  obtain ⟨k1, k2⟩ := header_or_place o (header o opc true key.tag str.tag q ||| place o 13 (str.fieldOr 0)) 16
    (key.fieldOr 0) (by omega) (by omega)
  refine ⟨?_, ?_, ?_, ?_⟩
  · rw [encodeSK, k1, g1, opc_header]
  · rw [encodeSK, k2 8 (by omega), g2 8 (by omega), h8]
  · rw [operand0, encodeSK, k2 7 (by omega), g2 7 (by omega), h7, field_or, field_or,
      field_header _ _ _ _ _ _ _ _ (by omega) (by omega), field_place_same o 13 _ (by omega),
      field_place_disjoint o 16 13 3 _ (by omega) (by omega) (by omega)]
    simpa using operandOf_tag_fieldOr 0#3 str
  · rw [operandKey, encodeSK, k2 6 (by omega), g2 6 (by omega), h6, field_or, field_or,
      field_header _ _ _ _ _ _ _ _ (by omega) (by omega), field_place_same o 16 _ (by omega),
      field_place_disjoint o 13 16 64 _ (by omega) (by omega) (by omega)]
    simpa using operandOf_tag_fieldOr 0#64 key

/-- What the decoder reads from format F-SKV. -/
theorem decode_fields_SKV (o : BitOrder) (opc : BitVec 5) (q : Bool) (str : Operand StrNo) (key : Operand Key)
    (value : Operand Value) :
    field o 0 5 (encodeSKV o opc q str key value) = opc ∧ bitAt o 8 (encodeSKV o opc q str key value) = q ∧
      operand0 o (encodeSKV o opc q str key value) = str ∧ operandKey o (encodeSKV o opc q str key value) = key ∧
      operandValue o (encodeSKV o opc q str key value) = value := by
  obtain ⟨h5, h6, h7, h8⟩ := bits_header o opc value.tag key.tag str.tag q
  obtain ⟨g1, g2⟩ := header_or_place o (header o opc value.tag key.tag str.tag q) 13 (str.fieldOr 0) (by omega)
    (by omega)
  obtain ⟨k1, k2⟩ := header_or_place o (header o opc value.tag key.tag str.tag q ||| place o 13 (str.fieldOr 0))
    16 (key.fieldOr 0) (by omega) (by omega)
  obtain ⟨v1, v2⟩ := header_or_place o (header o opc value.tag key.tag str.tag q ||| place o 13 (str.fieldOr 0) |||
    place o 16 (key.fieldOr 0)) 80 (value.fieldOr 0) (by omega) (by omega)
  refine ⟨?_, ?_, ?_, ?_, ?_⟩
  · rw [encodeSKV, v1, k1, g1, opc_header]
  · rw [encodeSKV, v2 8 (by omega), k2 8 (by omega), g2 8 (by omega), h8]
  · rw [operand0, encodeSKV, v2 7 (by omega), k2 7 (by omega), g2 7 (by omega), h7, field_or, field_or, field_or,
      field_header _ _ _ _ _ _ _ _ (by omega) (by omega), field_place_same o 13 _ (by omega),
      field_place_disjoint o 16 13 3 _ (by omega) (by omega) (by omega),
      field_place_disjoint o 80 13 3 _ (by omega) (by omega) (by omega)]
    simpa using operandOf_tag_fieldOr 0#3 str
  · rw [operandKey, encodeSKV, v2 6 (by omega), k2 6 (by omega), g2 6 (by omega), h6, field_or, field_or, field_or,
      field_header _ _ _ _ _ _ _ _ (by omega) (by omega), field_place_same o 16 _ (by omega),
      field_place_disjoint o 13 16 64 _ (by omega) (by omega) (by omega),
      field_place_disjoint o 80 16 64 _ (by omega) (by omega) (by omega)]
    simpa using operandOf_tag_fieldOr 0#64 key
  · rw [operandValue, encodeSKV, v2 5 (by omega), k2 5 (by omega), g2 5 (by omega), h5, field_or, field_or, field_or,
      field_header _ _ _ _ _ _ _ _ (by omega) (by omega), field_place_same o 80 _ (by omega),
      field_place_disjoint o 13 80 64 _ (by omega) (by omega) (by omega),
      field_place_disjoint o 16 80 64 _ (by omega) (by omega) (by omega)]
    simpa using operandOf_tag_fieldOr 0#64 value

/-- What the decoder reads from format F-RAB. -/
theorem decode_fields_RAB (o : BitOrder) (opc : BitVec 5) (q : Bool) (r a b : Operand StrNo) :
    field o 0 5 (encodeRAB o opc q r a b) = opc ∧ bitAt o 8 (encodeRAB o opc q r a b) = q ∧
      operand0 o (encodeRAB o opc q r a b) = r ∧ operandA o (encodeRAB o opc q r a b) = a ∧
      operandB o (encodeRAB o opc q r a b) = b := by
  obtain ⟨h5, h6, h7, h8⟩ := bits_header o opc b.tag a.tag r.tag q
  obtain ⟨g1, g2⟩ := header_or_place o (header o opc b.tag a.tag r.tag q) 13 (r.fieldOr 0) (by omega) (by omega)
  obtain ⟨k1, k2⟩ := header_or_place o (header o opc b.tag a.tag r.tag q ||| place o 13 (r.fieldOr 0))
    21 (a.fieldOr 0) (by omega) (by omega)
  obtain ⟨v1, v2⟩ := header_or_place o (header o opc b.tag a.tag r.tag q ||| place o 13 (r.fieldOr 0) |||
    place o 21 (a.fieldOr 0)) 29 (b.fieldOr 0) (by omega) (by omega)
  refine ⟨?_, ?_, ?_, ?_, ?_⟩
  · rw [encodeRAB, v1, k1, g1, opc_header]
  · rw [encodeRAB, v2 8 (by omega), k2 8 (by omega), g2 8 (by omega), h8]
  · rw [operand0, encodeRAB, v2 7 (by omega), k2 7 (by omega), g2 7 (by omega), h7, field_or, field_or, field_or,
      field_header _ _ _ _ _ _ _ _ (by omega) (by omega), field_place_same o 13 _ (by omega),
      field_place_disjoint o 21 13 3 _ (by omega) (by omega) (by omega),
      field_place_disjoint o 29 13 3 _ (by omega) (by omega) (by omega)]
    simpa using operandOf_tag_fieldOr 0#3 r
  · rw [operandA, encodeRAB, v2 6 (by omega), k2 6 (by omega), g2 6 (by omega), h6, field_or, field_or, field_or,
      field_header _ _ _ _ _ _ _ _ (by omega) (by omega), field_place_same o 21 _ (by omega),
      field_place_disjoint o 13 21 3 _ (by omega) (by omega) (by omega),
      field_place_disjoint o 29 21 3 _ (by omega) (by omega) (by omega)]
    simpa using operandOf_tag_fieldOr 0#3 a
  · rw [operandB, encodeRAB, v2 5 (by omega), k2 5 (by omega), g2 5 (by omega), h5, field_or, field_or, field_or,
      field_header _ _ _ _ _ _ _ _ (by omega) (by omega), field_place_same o 29 _ (by omega),
      field_place_disjoint o 13 29 3 _ (by omega) (by omega) (by omega),
      field_place_disjoint o 21 29 3 _ (by omega) (by omega) (by omega)]
    simpa using operandOf_tag_fieldOr 0#3 b

/-- What the decoder reads from format F-RAK. -/
theorem decode_fields_RAK (o : BitOrder) (opc : BitVec 5) (q : Bool) (r a : Operand StrNo) (key : Operand Key) :
    field o 0 5 (encodeRAK o opc q r a key) = opc ∧ bitAt o 8 (encodeRAK o opc q r a key) = q ∧
      operand0 o (encodeRAK o opc q r a key) = r ∧ operandA o (encodeRAK o opc q r a key) = a ∧
      operandSliceKey o (encodeRAK o opc q r a key) = key := by
  obtain ⟨h5, h6, h7, h8⟩ := bits_header o opc key.tag a.tag r.tag q
  obtain ⟨g1, g2⟩ := header_or_place o (header o opc key.tag a.tag r.tag q) 13 (r.fieldOr 0) (by omega) (by omega)
  obtain ⟨k1, k2⟩ := header_or_place o (header o opc key.tag a.tag r.tag q ||| place o 13 (r.fieldOr 0))
    21 (a.fieldOr 0) (by omega) (by omega)
  obtain ⟨v1, v2⟩ := header_or_place o (header o opc key.tag a.tag r.tag q ||| place o 13 (r.fieldOr 0) |||
    place o 21 (a.fieldOr 0)) 24 (key.fieldOr 0) (by omega) (by omega)
  refine ⟨?_, ?_, ?_, ?_, ?_⟩
  · rw [encodeRAK, v1, k1, g1, opc_header]
  · rw [encodeRAK, v2 8 (by omega), k2 8 (by omega), g2 8 (by omega), h8]
  · rw [operand0, encodeRAK, v2 7 (by omega), k2 7 (by omega), g2 7 (by omega), h7, field_or, field_or, field_or,
      field_header _ _ _ _ _ _ _ _ (by omega) (by omega), field_place_same o 13 _ (by omega),
      field_place_disjoint o 21 13 3 _ (by omega) (by omega) (by omega),
      field_place_disjoint o 24 13 3 _ (by omega) (by omega) (by omega)]
    simpa using operandOf_tag_fieldOr 0#3 r
  · rw [operandA, encodeRAK, v2 6 (by omega), k2 6 (by omega), g2 6 (by omega), h6, field_or, field_or, field_or,
      field_header _ _ _ _ _ _ _ _ (by omega) (by omega), field_place_same o 21 _ (by omega),
      field_place_disjoint o 13 21 3 _ (by omega) (by omega) (by omega),
      field_place_disjoint o 24 21 3 _ (by omega) (by omega) (by omega)]
    simpa using operandOf_tag_fieldOr 0#3 a
  · rw [operandSliceKey, encodeRAK, v2 5 (by omega), k2 5 (by omega), g2 5 (by omega), h5, field_or, field_or,
      field_or, field_header _ _ _ _ _ _ _ _ (by omega) (by omega), field_place_same o 24 _ (by omega),
      field_place_disjoint o 13 24 64 _ (by omega) (by omega) (by omega),
      field_place_disjoint o 21 24 64 _ (by omega) (by omega) (by omega)]
    simpa using operandOf_tag_fieldOr 0#64 key

/-- What the decoder reads from format F-JT. -/
theorem decode_fields_JT (p : Params) (hp : p.wf) (t0 : Bool) (addr : Operand Nat) (ha : addr.wfAddr p) :
    field p.bitOrder 0 5 (encodeJT p t0 addr) = p.opcJt ∧ bitAt p.bitOrder 7 (encodeJT p t0 addr) = t0 ∧
      operandAddr p (encodeJT p t0 addr) = addr := by
  obtain ⟨-, h9, -, hle, -⟩ := hp
  obtain ⟨-, h6, h7, -⟩ := bits_header p.bitOrder p.opcJt true addr.tag t0 false
  obtain ⟨g1, g2⟩ := header_or_place p.bitOrder (header p.bitOrder p.opcJt true addr.tag t0 false) p.jtOff
    (BitVec.ofNat p.jtAddrBits (addr.fieldOr 0)) h9 hle
  refine ⟨?_, ?_, ?_⟩
  · rw [encodeJT, g1, opc_header]
  · rw [encodeJT, g2 7 (by omega), h7]
  · rw [operandAddr, encodeJT, g2 6 (by omega), h6, field_or, field_header _ _ _ _ _ _ _ _ h9 hle,
      field_place_same _ _ _ hle]
    have : (BitVec.ofNat p.jtAddrBits (addr.fieldOr 0)).toNat = addr.fieldOr 0 := by
      rw [BitVec.toNat_ofNat, Nat.mod_eq_of_lt ha]
    simpa [this] using operandOf_tag_fieldOr 0 addr

end Sys2Proof
end

