-- ==== Sys2Proof/Laws/PerInstr.lean ====
section
/-! SUPPORT. The statements made of each command by itself, one lemma per constructor. -/

namespace Sys2Proof.Laws

/-- The OPC field of an encoded command is the command's opcode, in either bit order (spec/30_encoding.md R111,
R112, R116). -/
def OpcodeField.Statement (i : Instr) : Prop :=
  ∀ p : Params, p.wf → i.wellFormed p = true → field p.bitOrder 0 5 (encode p i) = i.opcode p

theorem OpcodeField.del (q : Bool) (str : Operand StrNo) (key : Operand Key) :
    OpcodeField.Statement (.del q str key) :=
  fun p _ _ => (decode_fields_SK p.bitOrder _ q str key).1

theorem OpcodeField.ins (q : Bool) (str : Operand StrNo) (key : Operand Key) (value : Operand Value) :
    OpcodeField.Statement (.ins q str key value) :=
  fun p _ _ => (decode_fields_SKV p.bitOrder _ q str key value).1

theorem OpcodeField.min (q : Bool) (str : Operand StrNo) :
    OpcodeField.Statement (.min q str) :=
  fun p _ _ => (decode_fields_S p.bitOrder _ q _ str).1

theorem OpcodeField.max (q : Bool) (str : Operand StrNo) :
    OpcodeField.Statement (.max q str) :=
  fun p _ _ => (decode_fields_S p.bitOrder _ q _ str).1

theorem OpcodeField.srch (q : Bool) (str : Operand StrNo) (key : Operand Key) :
    OpcodeField.Statement (.srch q str key) :=
  fun p _ _ => (decode_fields_SK p.bitOrder _ q str key).1

theorem OpcodeField.sq (q : Bool) (str : Operand StrNo) :
    OpcodeField.Statement (.sq q str) :=
  fun p _ _ => (decode_fields_S p.bitOrder _ q _ str).1

theorem OpcodeField.cnt (q : Bool) (str : Operand StrNo) :
    OpcodeField.Statement (.cnt q str) :=
  fun p _ _ => (decode_fields_S p.bitOrder _ q _ str).1

theorem OpcodeField.or (q : Bool) (r a b : Operand StrNo) :
    OpcodeField.Statement (.or q r a b) :=
  fun p _ _ => (decode_fields_RAB p.bitOrder _ q r a b).1

theorem OpcodeField.and (q : Bool) (r a b : Operand StrNo) :
    OpcodeField.Statement (.and q r a b) :=
  fun p _ _ => (decode_fields_RAB p.bitOrder _ q r a b).1

theorem OpcodeField.not (q : Bool) (r a b : Operand StrNo) :
    OpcodeField.Statement (.not q r a b) :=
  fun p _ _ => (decode_fields_RAB p.bitOrder _ q r a b).1

theorem OpcodeField.lseq (q : Bool) (r a : Operand StrNo) (key : Operand Key) :
    OpcodeField.Statement (.lseq q r a key) :=
  fun p _ _ => (decode_fields_RAK p.bitOrder _ q r a key).1

theorem OpcodeField.ls (q : Bool) (r a : Operand StrNo) (key : Operand Key) :
    OpcodeField.Statement (.ls q r a key) :=
  fun p _ _ => (decode_fields_RAK p.bitOrder _ q r a key).1

theorem OpcodeField.greq (q : Bool) (r a : Operand StrNo) (key : Operand Key) :
    OpcodeField.Statement (.greq q r a key) :=
  fun p _ _ => (decode_fields_RAK p.bitOrder _ q r a key).1

theorem OpcodeField.gr (q : Bool) (r a : Operand StrNo) (key : Operand Key) :
    OpcodeField.Statement (.gr q r a key) :=
  fun p _ _ => (decode_fields_RAK p.bitOrder _ q r a key).1

theorem OpcodeField.dels (q : Bool) (str : Operand StrNo) :
    OpcodeField.Statement (.dels q str) :=
  fun p _ _ => (decode_fields_S p.bitOrder _ q _ str).1

theorem OpcodeField.next (q : Bool) (str : Operand StrNo) (key : Operand Key) :
    OpcodeField.Statement (.next q str key) :=
  fun p _ _ => (decode_fields_SK p.bitOrder _ q str key).1

theorem OpcodeField.prev (q : Bool) (str : Operand StrNo) (key : Operand Key) :
    OpcodeField.Statement (.prev q str key) :=
  fun p _ _ => (decode_fields_SK p.bitOrder _ q str key).1

theorem OpcodeField.nsm (q : Bool) (str : Operand StrNo) (key : Operand Key) :
    OpcodeField.Statement (.nsm q str key) :=
  fun p _ _ => (decode_fields_SK p.bitOrder _ q str key).1

theorem OpcodeField.ngr (q : Bool) (str : Operand StrNo) (key : Operand Key) :
    OpcodeField.Statement (.ngr q str key) :=
  fun p _ _ => (decode_fields_SK p.bitOrder _ q str key).1

theorem OpcodeField.jt (t0 : Bool) (addr : Operand Nat) : OpcodeField.Statement (.jt t0 addr) :=
  fun p hp hw => (decode_fields_JT p hp t0 addr (by simpa [Instr.wellFormed] using hw)).1

end Sys2Proof.Laws
end

