-- ==== Sys2Proof/Laws/Step.lean ====
section
/-! SUPPORT. What a step can do, said once: which agent moves (spec/20_memory.md R91, log 7), and the cases of a
step that gives a next state. -/

namespace Sys2Proof.Machine

@[simp] theorem State.mem_enabledAgents_host (s : State) : Agent.host ∈ s.enabledAgents ↔ s.pci2sys ≠ [] := by
  unfold State.enabledAgents
  cases s.pci2sys <;> simp

@[simp] theorem State.mem_enabledAgents_coprocessor (s : State) :
    Agent.coprocessor ∈ s.enabledAgents ↔ s.c2s ≠ [] := by
  unfold State.enabledAgents
  cases s.c2s <;> simp

@[simp] theorem State.mem_enabledAgents_misd (s : State) :
    Agent.misd ∈ s.enabledAgents ↔ s.misdEnabled = true ∧ s.wait.blocked = false := by
  unfold State.enabledAgents
  cases s.misdEnabled <;> cases s.wait.blocked <;> simp

/-- The agent that moves can move. -/
theorem State.mover_mem {s : State} {a : Agent} (h : s.mover = some a) : a ∈ s.enabledAgents := by
  unfold State.mover at h
  split at h
  · simp at h
  · next e => simp [e]; simpa [eq_comm] using h
  · next b bs e =>
    rw [e]
    split at h
    · split at h
      · next hm => obtain rfl := Option.some.inj h; exact hm
      · exact List.mem_of_getElem? h
    · exact List.mem_of_getElem? h

/-- The agent that has the turn moves if it can. -/
theorem State.mover_eq_of_turn {s : State} {a : Agent} (ha : a ∈ s.enabledAgents) (ht : s.turns.head? = some a) :
    s.mover = some a := by
  obtain ⟨ts, hts⟩ : ∃ ts, s.turns = a :: ts := by
    cases h : s.turns <;> simp_all
  unfold State.mover
  split
  · next e => simp [e] at ha
  · next b e => simp [e] at ha; simp [ha]
  · next b bs e => rw [e] at ha; simp only [hts]; rw [if_pos ha]

/-- The only agent that can move moves. -/
theorem State.mover_eq_of_only {s : State} {a : Agent} (h : s.enabledAgents = [a]) : s.mover = some a := by
  simp [State.mover, h]

/-- If some agent can move, one moves. -/
theorem State.mover_eq_none_iff (s : State) : s.mover = none ↔ s.enabledAgents = [] := by
  constructor
  · intro h
    unfold State.mover at h
    split at h
    · assumption
    · simp at h
    · next b bs _ e =>
      have hlt : ∀ n, n % (bs.length + 1) < (b :: bs).length := fun n => by
        simpa using Nat.mod_lt n (Nat.succ_pos _)
      split at h
      · split at h
        · simp at h
        · rw [List.getElem?_eq_getElem (hlt _)] at h; simp at h
      · rw [List.getElem?_eq_getElem (hlt _)] at h; simp at h
  · intro h; simp [State.mover, h]

theorem MisdMoves.mover {s : State} (h : MisdMoves s) : s.mover = some .misd := by
  obtain ⟨_, he, hb, ht | ⟨hp, hc⟩⟩ := h
  · exact State.mover_eq_of_turn (by simp [he, hb]) ht
  · exact State.mover_eq_of_only (by simp [State.enabledAgents, hp, hc, he, hb])

theorem CoprocessorMoves.mover {s : State} (h : CoprocessorMoves s) : s.mover = some .coprocessor := by
  obtain ⟨_, hc, ht | ⟨hp, hm⟩⟩ := h
  · exact State.mover_eq_of_turn (by simpa using hc) ht
  · refine State.mover_eq_of_only ?_
    rcases hm with hm | hm <;> simp [State.enabledAgents, hp, hc, hm]

theorem HostMoves.mover {s : State} (h : HostMoves s) : s.mover = some .host := by
  obtain ⟨_, hp, ht | ⟨hc, hm⟩⟩ := h
  · exact State.mover_eq_of_turn (by simpa using hp) ht
  · refine State.mover_eq_of_only ?_
    rcases hm with hm | hm <;> simp [State.enabledAgents, hp, hc, hm]

/-- The fetch reads the fetched command, IP, LCM and the parameters only. -/
theorem State.fetch_congr {s t : State} (hf : t.fetched = s.fetched) (hi : t.ip = s.ip) (hl : t.lcm = s.lcm)
    (hp : t.params = s.params) : t.fetch = s.fetch := by
  simp only [State.fetch, State.fetchSlot, hf, hi, hl, hp]

/-- What the fetch gives when a command is fetched or the slot IP names holds one. -/
theorem State.fetch_eq_ok {s : State} {c : Slot} {i : Instr}
    (hc : s.fetched = some c ∨ (s.fetched = none ∧ s.ip < s.params.lcmSlots ∧ s.lcm.read s.ip = some c))
    (hd : decode s.params c = .ok i) : s.fetch = .ok (c, i) := by
  rcases hc with h | ⟨h, hi, hc⟩
  · simp [State.fetch, State.fetchSlot, h, hd]
  · simp [State.fetch, State.fetchSlot, h, hi, hc, hd]

/-- The fetch gives a command and the image it is decoded from. -/
theorem State.decode_of_fetch {s : State} {c : Slot} {i : Instr} (h : s.fetch = .ok (c, i)) :
    decode s.params c = .ok i := by
  unfold State.fetch at h
  split at h
  · simp at h
  · split at h
    · simp at h
    · next hd => simp at h; obtain ⟨rfl, rfl⟩ := h; exact hd

/-- The next state of a step: a hardware reset, nothing but the clock, an access of the host, or the execution of
a command of one of the streams. -/
theorem step_next {s t : State} (h : step s = .next t) :
    (s.rst = true ∧ t = s.beginStep.hardwareReset) ∨
    (s.rst = false ∧ s.mover = none ∧ t = s.beginStep) ∨
    (s.rst = false ∧ s.mover = some .host ∧ ∃ a rest, s.pci2sys = a :: rest ∧
      State.hostAccess a { s.beginStep with pci2sys := rest } = .next t) ∨
    (s.rst = false ∧ s.mover = some .coprocessor ∧ ∃ e rest i, s.c2s = e :: rest ∧ e.instr = some i ∧
      exec i { s.beginStep with c2s := rest, issuer := .coprocessor } = .next t) ∨
    (s.rst = false ∧ s.mover = some .misd ∧ ∃ c i, s.fetch = .ok (c, i) ∧
      exec i { s.beginStep with issuer := .misd, fetched := some c } = .next t) := by
  unfold step at h
  cases hr : s.rst
  · simp only [hr, Bool.false_eq_true, if_false] at h
    right
    split at h
    · next hm => exact .inl ⟨rfl, hm, by simpa [eq_comm] using h⟩
    · next hm =>
      have hmem := State.mover_mem hm
      rw [State.mem_enabledAgents_host] at hmem
      obtain ⟨a, rest, hp⟩ : ∃ a rest, s.pci2sys = a :: rest := by
        cases h : s.pci2sys <;> simp_all
      refine .inr (.inl ⟨rfl, hm, a, rest, hp, ?_⟩)
      simpa [State.hostStep, hp] using h
    · next hm =>
      have hmem := State.mover_mem hm
      rw [State.mem_enabledAgents_coprocessor] at hmem
      obtain ⟨e, rest, hc⟩ : ∃ e rest, s.c2s = e :: rest := by
        cases h : s.c2s <;> simp_all
      simp only [State.coprocessorStep, State.beginStep_c2s, hc] at h
      cases hi : e.instr with
      | none => simp [hi] at h
      | some i => exact .inr (.inr (.inl ⟨rfl, hm, e, rest, i, hc, hi, by simpa [hi] using h⟩))
    · next hm =>
      unfold State.misdStep at h
      rw [State.fetch_congr (s := s) (by simp) (by simp) (by simp) (by simp)] at h
      split at h
      · simp at h
      · next c i hf => exact .inr (.inr (.inr ⟨rfl, hm, c, i, hf, h⟩))
  · simp only [hr, if_true] at h
    exact .inl ⟨rfl, by simpa [eq_comm] using h⟩

end Sys2Proof.Machine
end

