-- ==== Sys2Proof/Laws/Window.lean ====
section
/-! SUPPORT. What an access of the host can do, said once: the cases of a write that gives a next state
(spec/10_state.md R38), and what the CONTROL1 actions leave unchanged (R50). -/

namespace Sys2Proof.Machine

/-- The next states of a CMD write (R232). -/
theorem State.writeCmd_next {s t : State} {w : Reg} (h : s.writeCmd w = .next t) :
    t = s ∨ t = { s with ovfFlag := true } ∨
      (assignedOpcode (cmdFields s.params.cmdLayout w).opc = true ∧ s.c2s.length < s.params.c2sDepth ∧
        t = { s with c2s := s.c2s ++ [s.commandEntry (cmdFields s.params.cmdLayout w)] }) := by
  unfold State.writeCmd at h
  simp only at h
  split at h
  · next ha =>
    split at h
    · left; simpa [eq_comm] using h
    · split at h
      · split at h
        · right; left; simpa [eq_comm] using h
        · left; simpa [eq_comm] using h
      · next hf =>
        right; right
        refine ⟨ha, by simpa [State.c2sFull] using hf, by simpa [eq_comm] using h⟩
  · split at h
    · left; simpa [eq_comm] using h
    · simp at h

/-- The next state of a CONTROL0 write (R41). -/
theorem State.writeControl0_next {s t : State} {v : Reg} (h : s.writeControl0 v = .next t) :
    ¬(v.getLsbD 2 = true ∧ v.getLsbD 3 = true) ∧
      (s.wait.blocked = true → v.getLsbD 0 = true ∨ s.pci2sys.head?.any HostAccess.abandonsWait = true) ∧
      t = { s with control0 := v } := by
  unfold State.writeControl0 at h
  split at h
  · simp at h
  · next h1 =>
    split at h
    · simp at h
    · next h2 =>
      refine ⟨fun hc => h1 (by rw [hc.1, hc.2]; rfl), fun hh => ?_, by simpa [eq_comm] using h⟩
      by_contra hc
      simp only [not_or, Bool.not_eq_true] at hc
      exact h2 (by rw [hh, hc.1, hc.2]; rfl)

/-- The next states of a write (R38), by the register it names. -/
theorem State.writeWindow_next {s t : State} {addr : Nat} {v : Reg} (h : s.writeWindow addr v = .next t) :
    (∃ k, t = { s with keyW := k }) ∨ (∃ x, t = { s with valueW := x }) ∨
    (addr = 0x40 ∧ s.writeCmd v = .next t) ∨ (addr = 0x44 ∧ s.writeControl0 v = .next t) ∨
    (addr = 0x48 ∧ t = s.control1Actions v) ∨ (∃ x, t = { s with lcmwAdr := x }) ∨
    (∃ x q, t = { s with lcmrAdr := x, dmaRead := q }) ∨ (∃ x, t = { s with lsmwAdr := x }) ∨
    (∃ x q, t = { s with lsmrAdr := x, dmaRead := q }) ∨ (∃ x, t = { s with tagL := x }) ∨
    (s.wait.blocked = true ∧ ∃ w : TagWait, w ≠ TagWait.idle ∧ t = { s with wait := w }) ∨
    (∃ x, t = { s with lmdW := x }) := by
  unfold State.writeWindow at h
  split at h
  · exact .inl ⟨_, by simpa [eq_comm] using h⟩
  · exact .inl ⟨_, by simpa [eq_comm] using h⟩
  · exact .inr (.inl ⟨_, by simpa [eq_comm] using h⟩)
  · exact .inr (.inl ⟨_, by simpa [eq_comm] using h⟩)
  · exact .inr (.inr (.inl ⟨rfl, h⟩))
  · exact .inr (.inr (.inr (.inl ⟨rfl, h⟩)))
  · refine .inr (.inr (.inr (.inr (.inl ⟨rfl, ?_⟩))))
    unfold State.writeControl1 at h
    split at h
    · simp at h
    · simpa [eq_comm] using h
  · exact .inr (.inr (.inr (.inr (.inr (.inl ⟨_, by simpa [eq_comm] using h⟩)))))
  · refine .inr (.inr (.inr (.inr (.inr (.inr (.inl ?_))))))
    obtain rfl := Host.Outcome.next.inj h
    simp only [State.writeLcmrAdr, State.fillDmaQueue]
    split
    · exact ⟨_, _, rfl⟩
    · exact ⟨v, s.dmaRead, rfl⟩
  · refine .inr (.inr (.inr (.inr (.inr (.inr (.inr (.inl ?_)))))))
    unfold State.writeLsmwAdr at h
    split at h
    · simp at h
    · exact ⟨_, by simpa [eq_comm] using h⟩
  · refine .inr (.inr (.inr (.inr (.inr (.inr (.inr (.inr (.inl ?_))))))))
    obtain rfl := Host.Outcome.next.inj h
    simp only [State.writeLsmrAdr, State.fillDmaQueue]
    split
    · exact ⟨_, _, rfl⟩
    · exact ⟨v, s.dmaRead, rfl⟩
  · exact .inr (.inr (.inr (.inr (.inr (.inr (.inr (.inr (.inr (.inl ⟨_, by simpa [eq_comm] using h⟩)))))))))
  · refine .inr (.inr (.inr (.inr (.inr (.inr (.inr (.inr (.inr (.inr (.inl ?_))))))))))
    unfold State.writeTag0 at h
    split at h
    · next hw =>
      exact ⟨by simp [TagWait.blocked, hw], { s.wait with t0 := .received (s.tagDatum v) }, by simp [TagWait.idle],
        (Host.Outcome.next.inj h).symm⟩
    · simp at h
  · refine .inr (.inr (.inr (.inr (.inr (.inr (.inr (.inr (.inr (.inr (.inl ?_))))))))))
    unfold State.writeTag1 at h
    split at h
    · next hw =>
      exact ⟨by simp [TagWait.blocked, hw], { s.wait with t1 := .received (s.tagDatum v) }, by simp [TagWait.idle],
        (Host.Outcome.next.inj h).symm⟩
    · simp at h
  · refine .inr (.inr (.inr (.inr (.inr (.inr (.inr (.inr (.inr (.inr (.inl ?_))))))))))
    unfold State.writeTag2 at h
    split at h
    · next hw =>
      exact ⟨by simp [TagWait.blocked, hw], { s.wait with t2 := .received (s.tagDatum v) }, by simp [TagWait.idle],
        (Host.Outcome.next.inj h).symm⟩
    · simp at h
  · refine .inr (.inr (.inr (.inr (.inr (.inr (.inr (.inr (.inr (.inr (.inr ?_))))))))))
    split at h
    · unfold State.writeLmd at h
      split at h
      · simp at h
      · exact ⟨_, by simpa [eq_comm] using h⟩
    · simp at h

/-- The next states of a host access (R84, R251, R253). -/
theorem State.hostAccess_next {s t : State} {a : HostAccess} (h : s.hostAccess a = .next t) :
    (∃ r, t = s.reply r ∧ a.abandonsWait = false) ∨
    (∃ addr v, a = .write addr 4 v ∧ s.writeWindow addr v = .next t) ∨
    (∃ b c, a = .loadLcm b c ∧ s.misdEnabled = false ∧ s.wait.blocked = false ∧ b < s.params.lcmSlots ∧
      t = { s with lcm := s.lcm.write b c }) := by
  cases a with
  | read addr size =>
    simp only [State.hostAccess] at h
    split at h
    · exact .inl ⟨_, by simpa [eq_comm] using h, rfl⟩
    · simp at h
  | write addr size v =>
    simp only [State.hostAccess] at h
    split at h
    · next ha =>
      obtain rfl : size = 4 := by simp [admittedAccess] at ha; exact ha.1.1
      exact .inr (.inl ⟨addr, v, rfl, h⟩)
    · simp at h
  | loadLcm b c =>
    simp only [State.hostAccess, State.hostLoadLcm] at h
    split at h
    · simp at h
    · next hm =>
      split at h
      · next hb =>
        simp only [Bool.or_eq_true, not_or, Bool.not_eq_true] at hm
        exact .inr (.inr ⟨b, c, rfl, hm.1, hm.2, hb, by simpa [eq_comm] using h⟩)
      · simp at h
  | readLcm b =>
    simp only [State.hostAccess, State.hostReadLcm] at h
    split at h
    · split at h
      · exact .inl ⟨_, by simpa [eq_comm] using h, rfl⟩
      · simp at h
    · simp at h

/-! ### Halves and status words -/

/-- The parts lie in ascending order (R87). -/
@[simp] theorem partBit_eq (n i : Nat) : partBit n i = 32 * i := rfl

@[simp] theorem halfAt_zero (v : BitVec 64) : halfAt 0 v = lowHalf v := rfl

@[simp] theorem halfAt_one (v : BitVec 64) : halfAt 1 v = highHalf v := rfl

@[simp] theorem setHalfAt_zero (w : Reg) (v : BitVec 64) : setHalfAt 0 w v = highHalf v ++ w := rfl

@[simp] theorem setHalfAt_one (w : Reg) (v : BitVec 64) : setHalfAt 1 w v = w ++ lowHalf v := rfl

/-- The two halves make the 64-bit quantity (R87). -/
theorem highHalf_append_lowHalf (v : BitVec 64) : highHalf v ++ lowHalf v = v := by
  ext i hi
  simp only [highHalf, lowHalf, BitVec.getElem_append, BitVec.getElem_extractLsb']
  split
  · simp [BitVec.getLsbD_eq_getElem hi]
  · rw [show 32 + (i - 32) = i by omega, BitVec.getLsbD_eq_getElem hi]

/-- The low byte of a status word. -/
theorem withLowByte_low (rest : Reg) (b0 b1 b2 b3 b4 b5 b6 b7 : Bool) :
    (withLowByte rest b0 b1 b2 b3 b4 b5 b6 b7).extractLsb' 0 8 =
      BitVec.ofBool b7 ++ BitVec.ofBool b6 ++ BitVec.ofBool b5 ++ BitVec.ofBool b4 ++
    BitVec.ofBool b3 ++ BitVec.ofBool b2 ++ BitVec.ofBool b1 ++ BitVec.ofBool b0 := by
  unfold withLowByte
  exact BitVec.extractLsb'_append_eq_right 

/-- Bit i of a status word is its flag i. -/
theorem withLowByte_getLsbD (rest : Reg) (b0 b1 b2 b3 b4 b5 b6 b7 : Bool) (i : Nat) (h : i < 8) :
    (withLowByte rest b0 b1 b2 b3 b4 b5 b6 b7).getLsbD i = [b0, b1, b2, b3, b4, b5, b6, b7][i]! := by
  have := congrArg (fun x => x.getLsbD i) (withLowByte_low rest b0 b1 b2 b3 b4 b5 b6 b7)
  simp only [BitVec.getLsbD_extractLsb', h, decide_true, Bool.true_and, Nat.zero_add] at this
  rw [this]
  clear this
  interval_cases i <;> (simp only [BitVec.getLsbD_append, BitVec.getLsbD_ofBool]; simp)

/-! ### CONTROL1 -/

theorem doWhen_resetPciQueues (b : Bool) (s : State) :
    doWhen b State.resetPciQueues s = { s with pci2sys := if b = true then [] else s.pci2sys, sys2pci := if b = true then [] else s.sys2pci } := by
  cases b <;> rfl

theorem doWhen_resetResultQueue (b : Bool) (s : State) :
    doWhen b State.resetResultQueue s = { s with s2c := if b = true then [] else s.s2c, owr := if b = true then false else s.owr } := by
  cases b <;> rfl

theorem doWhen_resetTsc (b : Bool) (s : State) :
    doWhen b State.resetTsc s = { s with tsc := if b = true then 0 else s.tsc } := by
  cases b <;> rfl

theorem doWhen_popResult (b : Bool) (s : State) :
    doWhen b State.popResult s = { s with s2c := if b = true then s.s2c.tail else s.s2c } := by
  cases b <;> rfl

theorem doWhen_shiftDmaQueue (b : Bool) (s : State) :
    doWhen b State.shiftDmaQueue s = { s with dmaRead := if b = true then s.dmaRead.tail else s.dmaRead } := by
  cases b <;> rfl

theorem doWhen_resetIp (b : Bool) (s : State) :
    doWhen b State.resetIp s = { s with
      ip := if b = true then 0 else s.ip
      wait := if b = true then TagWait.idle else s.wait
      fetched := if b = true then none else s.fetched } := by
  cases b <;> rfl

theorem doWhen_clearDataReady (b : Bool) (s : State) :
    doWhen b State.clearDataReady s = { s with drFlag := if b = true then false else s.drFlag } := by
  cases b <;> rfl

theorem doWhen_clearQueueOvf (b : Bool) (s : State) :
    doWhen b State.clearQueueOvf s = { s with ovfFlag := if b = true then false else s.ovfFlag } := by
  cases b <;> rfl

/-- The actions of CONTROL1 as one state: each component by the bits that touch it (R50 to R59). -/
theorem State.control1Actions_eq (s : State) (v : Reg) :
    s.control1Actions v =
      let r := doWhen (v.getLsbD 0) State.softwareReset s
      { r with
        pci2sys := if v.getLsbD 1 = true then [] else r.pci2sys
        sys2pci := if v.getLsbD 1 = true then [] else r.sys2pci
        tsc := if v.getLsbD 3 = true then 0 else r.tsc
        s2c := if v.getLsbD 2 = true then [] else if v.getLsbD 4 = true then r.s2c.tail else r.s2c
        owr := if v.getLsbD 2 = true then false else r.owr
        dmaRead := if v.getLsbD 5 = true then r.dmaRead.tail else r.dmaRead
        ip := if v.getLsbD 6 = true then 0 else r.ip
        wait := if v.getLsbD 6 = true then TagWait.idle else r.wait
        fetched := if v.getLsbD 6 = true then none else r.fetched
        drFlag := if v.getLsbD 7 = true then false else r.drFlag
        ovfFlag := if v.getLsbD 8 = true then false else r.ovfFlag } := by
  simp only [State.control1Actions, doWhen_resetPciQueues, doWhen_resetResultQueue, doWhen_resetTsc, doWhen_popResult,
    doWhen_shiftDmaQueue, doWhen_resetIp, doWhen_clearDataReady, doWhen_clearQueueOvf]

end Sys2Proof.Machine
end

