-- ==== Sys2Proof/Laws/Results.lean ====
section
/-! SUPPORT. What results and frames of the commands and of the host come to: the lemmas between the shared operations
and the statements (spec/44_coprocessor_mode.md R238, spec/10_state.md R24, spec/42_setops_slices_squeeze.md R192). -/

namespace Sys2Proof.Machine

/-! ### Operands -/

/-- An operand has no value exactly when it is not known (R213). -/
theorem resolve_eq_none {α : Type} {f : Datum → α} {o : Operand α} {c : TagCell} :
    resolve f o c = none ↔ known o.tag c = false := by
  cases o <;> cases c <;> simp [resolve, known, Operand.tag]

/-- A MISD command whose operands are not known waits (R213). -/
theorem exec_of_not_ready (i : Instr) (s : State) (hi : s.issuer = .misd) (hd : s.params.ddrBist = true)
    (hr : i.ready s = false) : exec i s = s.waitTags i.tags.1 i.tags.2.1 i.tags.2.2 := by
  cases i
  case jt t0 addr =>
    simp only [Instr.ready, Instr.tags, Bool.and_eq_false_iff, known_true, Bool.true_eq_false, or_false] at hr
    simp only [exec, execJt, hi, withJump, State.whenDdrGood, hd, if_true, Instr.tags]
    split
    · next h1 h2 =>
      have h1 := known_of_resolve h1
      rw [known_branchTag] at h1
      rw [h1, known_of_resolve h2] at hr
      simp at hr
    · rfl
  all_goals
    simp only [Instr.ready, Instr.tags, Bool.and_eq_false_iff, known_true, Bool.true_eq_false, or_false] at hr
    simp only [exec, execDel, execIns, execMin, execMax, execSrch, execSq, execCnt, execOr, execAnd, execNot,
        execLseq, execLs, execGreq, execGr, execDels, execNext, execPrev, execNsm, execNgr, withStr, withStrKey,
        withStrKeyValue, withRAB, withRAK, State.whenDdrGood, hd, if_true, Instr.tags]
    split <;> first | rfl | simp_all [← resolve_eq_none (f := strOfDatum), ← resolve_eq_none (f := (id : Datum →
        Key))]

/-- A blocked stream waits. -/
theorem TagWait.ne_idle_of_blocked {w : TagWait} (h : w.blocked = true) : w ≠ TagWait.idle := by
  rintro rfl
  simp [TagWait.blocked, TagCell.isAwaited] at h

@[simp] theorem TagWait.blocked_idle : TagWait.idle.blocked = false := rfl

/-! ### Reading structures -/

/-- A structure that does not exist. -/
theorem State.present_eq_false_iff {s : State} {n} : s.present n = false ↔ s.structure? n = none :=
    by simp [State.present]

/-- A structure that exists. -/
theorem State.present_eq_true_iff {s : State} {n} : s.present n = true ↔ ∃ m, s.structure? n = some m :=
    by simp [State.present, Option.isSome_iff_exists]

/-- A key with a value is in an existing structure. -/
theorem State.structure_of_lookup {s : State} {n k v} (h : s.lookup n k = some v) : ∃ m, s.structure? n = some m ∧
    m.get k = some v := by
  simpa [State.lookup, Option.bind_eq_some_iff] using h

/-- A key without a value is not in the map. -/
theorem State.not_has_of_lookup {s : State} {n k} (h : s.lookup n k = none) :
    ((s.structure? n).getD []).has k = false := by
  simp only [State.lookup] at h
  cases hm : s.structure? n with
  | none => rfl
  | some m => simp [hm] at h; simp [PairMap.has, h]

/-- The value of a key, by the map. -/
theorem State.lookup_eq (s : State) (n k) : s.lookup n k = ((s.structure? n).getD []).get k := by
  simp only [State.lookup]
  cases hm : s.structure? n <;> simp [PairMap.get_nil]

theorem State.lookup_endWait (s : State) (n k) : s.endWait.lookup n k = s.lookup n k := by simp [State.lookup]

/-- A stored map holds what the map holds. -/
theorem contentOf_get (p : Params) (m : PairMap) (j : Key) : ((contentOf p m).bind fun x => x.get j) = m.get j := by
  unfold contentOf
  split
  · next h => simp at h; simp [h.1, PairMap.get_nil]
  · simp

/-- A structure into which a map was stored (R24). -/
theorem existsIfHolding_of_stored {t : State} {n : StrNo} {m : PairMap} (h :
    t.structure? n = contentOf t.params m) : ExistsIfHolding n t := by
  unfold ExistsIfHolding
  simp only [State.present, State.lookup, h]
  cases m with
  | nil => cases he : t.params.emptyExists <;> simp [contentOf, he, PairMap.get_nil]
  | cons p m =>
    simp only [contentOf_get]
    have : contentOf t.params (p :: m) = some (p :: m) := by simp [contentOf]
    simp only [this, Option.isSome_some, true_iff]
    exact .inl ⟨p.1, p.2, by simp [PairMap.get_cons]⟩

/-- The pairs of a structure are those of its map. -/
theorem State.StructuresOk.lookup_iff {s : State} {n m} (hok : s.StructuresOk) (hm : s.structure? n = some m)
    (j x) : s.lookup n j = some x ↔ (j, x) ∈ m := by
  simp [State.lookup, hm, PairMap.get_eq_some_iff (hok n m hm).1]

theorem key_eq_of_le {a b : Key} (h1 : a ≤ b) (h2 : b ≤ a) : a = b := BitVec.le_antisymm h1 h2

/-- The model finds the pair at succ (R12). -/
theorem IsAbove.above_eq {s : State} {n m k} (hok : s.StructuresOk) (hm : s.structure? n = some m) {k' v} (h :
    IsAbove s n k k' v) :
    m.above k = some (k', v) := by
  obtain ⟨h1, h2, h3⟩ := h
  have hmem := (State.StructuresOk.lookup_iff hok hm k' v).mp h1
  cases hp : m.above k with
  | none => exact absurd h2 (PairMap.above_eq_none.mp hp _ hmem)
  | some p =>
    obtain ⟨a, b⟩ := p
    have hs := PairMap.above_spec (hok n m hm).1 hp
    have e : a = k' := key_eq_of_le (hs.2.2 _ hmem h2)
        (h3 a b ((State.StructuresOk.lookup_iff hok hm a b).mpr hs.1) hs.2.1)
    subst e
    have := (State.StructuresOk.lookup_iff hok hm a b).mpr hs.1
    rw [h1] at this
    simp at this; simp [this]

/-- The model finds the pair at pred (R12). -/
theorem IsBelow.below_eq {s : State} {n m k} (hok : s.StructuresOk) (hm : s.structure? n = some m) {k' v} (h :
    IsBelow s n k k' v) :
    m.below k = some (k', v) := by
  obtain ⟨h1, h2, h3⟩ := h
  have hmem := (State.StructuresOk.lookup_iff hok hm k' v).mp h1
  cases hp : m.below k with
  | none => exact absurd h2 (PairMap.below_eq_none.mp hp _ hmem)
  | some p =>
    obtain ⟨a, b⟩ := p
    have hs := PairMap.below_spec (hok n m hm).1 hp
    have e : a = k' := key_eq_of_le (h3 a b ((State.StructuresOk.lookup_iff hok hm a b).mpr hs.1) hs.2.1)
        (hs.2.2 _ hmem h2)
    subst e
    have := (State.StructuresOk.lookup_iff hok hm a b).mpr hs.1
    rw [h1] at this
    simp at this; simp [this]

/-- The model finds that succ is none (R12). -/
theorem NoneAbove.above_eq {s : State} {n m k} (hok : s.StructuresOk) (hm : s.structure? n = some m) (h :
    NoneAbove s n k) : m.above k = none :=
  PairMap.above_eq_none.mpr fun q hq => h q.1 q.2 ((State.StructuresOk.lookup_iff hok hm q.1 q.2).mpr hq)

/-- The model finds that pred is none (R12). -/
theorem NoneBelow.below_eq {s : State} {n m k} (hok : s.StructuresOk) (hm : s.structure? n = some m) (h :
    NoneBelow s n k) : m.below k = none :=
  PairMap.below_eq_none.mpr fun q hq => h q.1 q.2 ((State.StructuresOk.lookup_iff hok hm q.1 q.2).mpr hq)

/-! ### Delivered results -/

/-- What a query that delivers leaves unchanged. -/
theorem QueryFrame.of_deliver (s : State) (q v : Bool) (c : Cause) (k x) :
    QueryFrame s (s.endWait.deliver q v c k x).advance where
  untouched := s.endWait_untouched.trans ((State.deliver_untouched _ q v c k x).trans (State.advance_untouched _))
  advanced := State.advanced_of (by simp) (by simp) (by simp)
  structures := fun n => by simp
  oracles := ⟨by simp, by simp⟩
  power := by simp

/-- What a query delivers. -/
theorem Delivered.of_query (s : State) (q v : Bool) (c : Cause) (k x) :
    Delivered q v c (k.getD (Config.anyKey s.draws))
        (x.getD (Config.anyValue s.draws)) s (s.endWait.deliver q v c k x).advance := by
  obtain ⟨h1, h2, h3, h4, h5, h6, h7, h8, h9⟩ := State.deliver_spec s.endWait q v c k x
  constructor <;> simp_all

/-- What a failing command delivers. -/
theorem Failed.of_raiseError (s : State) (q : Bool) (c : Cause) : Failed q c s (s.endWait.raiseError q c).advance :=
  ⟨_, _, Delivered.of_query s q false c none none⟩

/-- What a failing command leaves unchanged. -/
theorem QueryFrame.of_raiseError (s : State) (q : Bool) (c : Cause) :
    QueryFrame s (s.endWait.raiseError q c).advance :=
  QueryFrame.of_deliver s q false c none none

/-- What a command that updates structure n and then delivers leaves unchanged. -/
theorem UpdateFrame.of_deliver {s u : State} {n : StrNo} (hu : Untouched s.endWait u) (hi : u.ip = s.endWait.ip)
    (hw : u.wait = s.endWait.wait ∧ u.fetched = s.endWait.fetched)
    (hs : SameStructuresBut n s.endWait u) (hp : u.last.power = s.last.power) (q v c k x) :
        UpdateFrame n s (u.deliver q v c k x).advance where
  untouched :=
      s.endWait_untouched.trans (hu.trans ((State.deliver_untouched _ q v c k x).trans (State.advance_untouched _)))
  advanced := State.advanced_of (by simp [hi]) (by simp [hw]) (by have := hu.issuer; simp_all)
  structures := fun n' hn => by have := hs n' hn; simp_all
  power := by simp [hp]

/-- What a command that updates a structure delivers. -/
theorem Delivered.of_update {s u : State} (hu : Untouched s.endWait u) (hq : u.s2c = s.s2c) (ho : u.owr = s.owr)
    (hd : u.drFlag = s.drFlag) (q v c k x) :
    Delivered q v c (k.getD (Config.anyKey s.draws))
        (x.getD (Config.anyValue s.draws)) s (u.deliver q v c k x).advance := by
  have hh : u.draws = s.draws := by rw [hu.draws]; simp
  obtain ⟨h1, h2, h3, h4, h5, h6, h7, h8, h9⟩ := State.deliver_spec u q v c k x
  have h10 := hu.params
  have h11 := hu.control0
  constructor <;> simp_all

/-! ### Set operations and slices -/

/-- A result is stored when there is space (R192, R199). -/
theorem State.storeResult_stored {s : State} {nr : StrNo} (hn : nr ≠ 0#3) (q : Bool) (m : PairMap)
   (ha : s.setopAnswers.headD (Config.setopSpace s.draws) = .ok) (hl : m.length ≤ Config.strVal) :
   let t := (s.endWait.storeResult q nr m).advance
   UpdateFrame nr s t ∧ t.insAnswers = s.insAnswers ∧
      t.setopAnswers = s.setopAnswers.tail ∧ Succeeded q .ok s t ∧ ExistsIfHolding nr t ∧ ∀ j,
          t.lookup nr j = m.get j := by
  have hans : s.endWait.setopAnswer m.length = .ok := by
    unfold State.setopAnswer
    rw [if_neg (by omega)]; simpa only [State.endWait_setopAnswers, State.endWait_draws] using ha
  simp only [State.storeResult, hans]
  have hu : Untouched s.endWait (s.endWait.popSetopAnswer.storeMap nr m) :=
      (State.popSetopAnswer_untouched _).trans (State.storeMap_untouched _ _ _)
  refine ⟨UpdateFrame.of_deliver hu (by simp) (by simp) ?_ (by simp) _ _ _ _ _, by simp, by simp, ⟨_, _,
      Delivered.of_update hu (by simp) (by simp) (by simp) _ _ _ _ _⟩, ?_, ?_⟩
  · intro n' hn'; rw [State.structure?_storeMap_other _ hn']; simp
  · exact existsIfHolding_of_stored (m := m) (by simp [State.structure?_storeMap_same _ hn])
  · intro j
    simp only [State.lookup, State.structure?_advance, State.structure?_deliver, State.structure?_storeMap_same _ hn,
        contentOf_get]

/-- Without space, or for a result of more than STR_VAL keys, the result structure is drawn (R192, U7). -/
theorem State.storeResult_noSpace {s : State} {nr : StrNo} (hok : s.StructuresOk) (q : Bool) (m : PairMap)
   (ha : s.setopAnswers.headD (Config.setopSpace s.draws) = .fail ∨ Config.strVal < m.length) :
   let t := (s.endWait.storeResult q nr m).advance
   UpdateFrame nr s t ∧ t.insAnswers = s.insAnswers ∧
      t.setopAnswers = s.setopAnswers.tail ∧ Failed q .eNoSpace s t ∧ t.StructuresOk := by
  have hans : s.endWait.setopAnswer m.length = .fail := by
    unfold State.setopAnswer
    split
    · rfl
    · next h => simpa only [State.endWait_setopAnswers, State.endWait_draws] using ha.resolve_right h
  simp only [State.storeResult, hans, State.raiseError]
  have hu : Untouched s.endWait (s.endWait.popSetopAnswer.redraw nr) :=
      (State.popSetopAnswer_untouched _).trans (State.redraw_untouched _ _)
  refine ⟨UpdateFrame.of_deliver hu (by simp) (by simp) ?_ (by simp) _ _ _ _ _, by simp, by simp, ⟨_, _,
      Delivered.of_update hu (by simp) (by simp) (by simp) _ _ _ _ _⟩, ?_⟩
  · intro n' hn'; rw [State.structure?_redraw_other _ hn']; simp
  · have h1 : s.endWait.popSetopAnswer.StructuresOk := hok.congr (by simp) (by simp)
    exact (h1.redraw nr).congr (by simp) (by simp)

/-- A set operation whose structures are as R192 requires. -/
theorem State.combine_of_present {s : State} {f q r a b} (h1 : s.present r = false) (h2 : s.present a = true) (h3 :
    s.present b = true) :
    s.endWait.combine f q r a b = s.endWait.storeResult q r (f ((s.structure? a).getD [])
        ((s.structure? b).getD [])) := by
  have e : ∀ n, s.endWait.present n = s.present n := fun n => by simp [State.present]
  have : s.endWait.buildError (s.endWait.present r) (!s.endWait.present a || !s.endWait.present b) = none := by
    rw [State.buildError_eq_none]; simp [e, h1, h2, h3]
  simp only [State.combine, this, State.structure?_endWait]

/-- A slice whose structures are as R199 requires. -/
theorem State.sliceInto_of_present {s : State} {f q r a} (h1 : s.present r = false) (h2 : s.present a = true) :
    s.endWait.sliceInto f q r a = s.endWait.storeResult q r (PairMap.slice ((s.structure? a).getD []) f) := by
  have e : ∀ n, s.endWait.present n = s.present n := fun n => by simp [State.present]
  have : s.endWait.buildError (s.endWait.present r) (!s.endWait.present a) = none := by
    rw [State.buildError_eq_none]; simp [e, h1, h2]
  simp only [State.sliceInto, this, State.structure?_endWait]

/-- The end of the wait changes no set function. -/
theorem State.setFn_endWait (s : State) : s.endWait.andFn = s.andFn ∧ s.endWait.orFn = s.orFn := by
  simp [State.andFn, State.orFn, State.unionFn, State.interFn]

/-! ### Frames of the agents -/

/-- What the execution of a command leaves unchanged or set. -/
theorem exec_frame {i s t} (h : exec i s = .next t) : Untouched s t ∧ (s.issuer = .coprocessor → t.ip = s.ip ∧
    t.wait = s.wait ∧ t.fetched = s.fetched) ∧ (s.drFlag = true → t.drFlag = true) ∧ (s.owr = true → t.owr = true) := by
  cases hj : i.isJump with
  | false =>
    rcases exec_executed hj h with ⟨hr, hw⟩ | ⟨hr, u, he, rfl⟩
    · obtain ⟨hi, rfl⟩ := State.waitTags_next hw
      exact ⟨by constructor <;> rfl, by simp [hi], id, id⟩
    · have hadv := State.advanced_of he.ip he.wait (by rw [he.untouched.issuer]; simp)
      obtain ⟨c, k, x, hd⟩ := he.delivered
      refine ⟨s.endWait_untouched.trans (he.untouched.trans u.advance_untouched), fun hi => ?_, fun h => ?_,
          fun h => ?_⟩
      · unfold Advanced at hadv; rw [hi] at hadv; exact hadv
      · have := hd.interrupt; simp [h] at this; simp [this]
      · have := hd.overwritten; simp [h] at this; simp [this]
  | true =>
    cases i with
    | jt t0 addr =>
      rcases execJt_next h with ⟨_, rfl⟩ | ⟨hi, _, a, rfl⟩ | ⟨hi, _, hw⟩
      · exact ⟨Untouched.refl _, fun _ => ⟨rfl, rfl, rfl⟩, id, id⟩
      · exact ⟨by constructor <;> rfl, by simp [hi], id, id⟩
      · obtain ⟨_, rfl⟩ := State.waitTags_next hw
        exact ⟨by constructor <;> rfl, by simp [hi], id, id⟩
    | _ => simp [Instr.isJump] at hj

/-- What an access of the host leaves unchanged or set, unless it writes CONTROL1. -/
theorem State.hostAccess_cases {s t : State} {a} (h : State.hostAccess a s = .next t) :
   (∃ v, a = .write 0x48 4 v ∧ t = s.control1Actions v) ∨
   (t.ip = s.ip ∧ (s.drFlag = true → t.drFlag = true) ∧ (s.ovfFlag = true → t.ovfFlag = true) ∧ (s.owr = true →
       t.owr = true) ∧ t.tsc = s.tsc ∧ t.params = s.params ∧
    (t.control0 ≠ s.control0 → a = .write 0x44 4 t.control0) ∧
    (t.lcm ≠ s.lcm → s.misdEnabled = false ∧ ∃ b c, a = .loadLcm b c ∧ t.lcm = s.lcm.write b c)) := by
  rcases State.hostAccess_next h with ⟨r, rfl, -⟩ | ⟨addr, v, rfl, hw⟩ | ⟨b, c, rfl, h1, h2, h3, rfl⟩
  · exact .inr ⟨rfl, id, id, id, rfl, rfl, by simp [State.reply], by simp [State.reply]⟩
  · rcases State.writeWindow_next hw with ⟨x, rfl⟩ | ⟨x, rfl⟩ | ⟨-, hw⟩ | ⟨rfl, hw⟩ | ⟨rfl, rfl⟩ | ⟨x, rfl⟩ | ⟨x, q,
        rfl⟩ | ⟨x, rfl⟩ | ⟨x, q, rfl⟩ | ⟨x, rfl⟩ | ⟨hb, w, hw, rfl⟩ | ⟨x, rfl⟩
    case inr.inr.inl =>
      rcases State.writeCmd_next hw with rfl | rfl | ⟨h1, h2, rfl⟩
      all_goals exact .inr ⟨rfl, id, by simp, id, rfl, rfl, by simp, by simp⟩
    case inr.inr.inr.inl =>
      obtain ⟨h1, h2, rfl⟩ := State.writeControl0_next hw
      exact .inr ⟨rfl, id, id, id, rfl, rfl, by simp, by simp⟩
    case inr.inr.inr.inr.inl => exact .inl ⟨v, rfl, rfl⟩
    all_goals exact .inr ⟨rfl, id, id, id, rfl, rfl, by simp, by simp⟩
  · refine .inr ⟨rfl, id, id, id, rfl, rfl, by simp, fun _ => ⟨h1, b, c, rfl, rfl⟩⟩

/-- What a CONTROL1 write leaves unchanged (R50). -/
theorem State.control1Actions_frame (s : State) (v) : (s.control1Actions v).control0 = s.control0 ∧
    (s.control1Actions v).lcm = s.lcm ∧ (s.control1Actions v).params = s.params ∧
    (s.control1Actions v).tsc = if v.getLsbD 3 = true then 0 else s.tsc := by
  rw [State.control1Actions_eq]
  unfold doWhen
  split <;> exact ⟨rfl, rfl, rfl, rfl⟩

/-- How TSC changes as a step begins (R275). -/
theorem State.beginStep_tsc (s : State) :
    if s.control0.getLsbD 4 = true then s.tsc ≤ s.beginStep.tsc else s.beginStep.tsc = s.tsc := by
  unfold State.beginStep State.tick State.tscEnabled
  split
  · next h =>
    simp only
    have h1 := s.tsc.isLt
    rw [BitVec.le_def, BitVec.toNat_add, BitVec.toNat_ofNat]
    have h2 := Nat.mod_lt (Config.tscGrowth s.draws) (show 0 < 2^64 - s.tsc.toNat by omega)
    rw [Nat.mod_eq_of_lt (a := _ % _) (by omega), Nat.mod_eq_of_lt (by omega)]
    omega
  · rfl

end Sys2Proof.Machine
end

