-- ==== Sys2Proof/Tests/Slice0.lean ====
section
/-! SUPPORT. Tests of the model on the vectors of spec/95_test_vectors.md, and for every statement with hypotheses a
witness that meets them. -/

namespace Sys2Proof.Tests

open Sys2Proof.Machine

/-! ### States (spec/95_test_vectors.md section 0) -/

/-- The test of a result that is a next state. -/
def gives (r : Result) (p : State → Bool) : Bool :=
  match r with
  | .next t => p t
  | _ => false

/-- The result a state's LAST shows: V and the cause. -/
def shows (v : Bool) (c : Cause) (t : State) : Bool := t.last.v == v && t.last.cause == some c

/-- So does LAST, with this key and value. -/
def returns (v : Bool) (c : Cause) (k : Key) (x : Value) (t : State) : Bool :=
  shows v c t && t.last.key == k && t.last.value == x

/-- A machine with the given structures 1 and 2, and oracles that answer `ok`. -/
def machine (m1 m2 : Option PairMap) : State :=
  { State.reset with
    structs := #v[m1, m2, none, none, none, none, none]
    insAnswers := [.ok]
    setopAnswers := [.ok] }

/-- Structure 1 of S0. -/
def map1 : PairMap := [(2, 20), (5, 50), (9, 90)]

/-- Structure 2 of S1. -/
def map2 : PairMap := [(5, 55), (7, 77)]

/-- E: no structure exists. -/
def sE : State := machine none none

/-- S0. -/
def s0 : State := machine (some map1) none

/-- S1. -/
def s1 : State := machine (some map1) (some map2)

/-- The MISD stream executes. -/
def misd (s : State) : State := { s with issuer := .misd }

/-- The parameters with the other bit order. -/
def lowParams : Params := { prototypeParams with bitOrder := .firstFieldLow }

/-! ### Well-formed commands: every check refuses a term (spec/00_scope.md R5, spec/30_encoding.md R113) -/

theorem test_wf_del : Instr.wellFormed prototypeParams (.del false (.given 0) (.given 5)) = false := by decide
theorem test_wf_ins : Instr.wellFormed prototypeParams (.ins false (.given 0) .awaited .awaited) = false := by decide
theorem test_wf_min : Instr.wellFormed prototypeParams (.min true (.given 0)) = false := by decide
theorem test_wf_max : Instr.wellFormed prototypeParams (.max true (.given 0)) = false := by decide
theorem test_wf_srch : Instr.wellFormed prototypeParams (.srch false (.given 0) (.given 5)) = false := by decide
theorem test_wf_sq : Instr.wellFormed prototypeParams (.sq false (.given 0)) = false := by decide
theorem test_wf_cnt : Instr.wellFormed prototypeParams (.cnt false (.given 0)) = false := by decide
theorem test_wf_or_r : Instr.wellFormed prototypeParams (.or false (.given 0) (.given 1) (.given 2)) = false := by decide
theorem test_wf_or_a : Instr.wellFormed prototypeParams (.or false (.given 3) (.given 0) (.given 2)) = false := by decide
theorem test_wf_or_b : Instr.wellFormed prototypeParams (.or false (.given 3) (.given 1) (.given 0)) = false := by decide
theorem test_wf_and_r : Instr.wellFormed prototypeParams (.and false (.given 0) (.given 1) .awaited) = false := by decide
theorem test_wf_and_a : Instr.wellFormed prototypeParams (.and false .awaited (.given 0) .awaited) = false := by decide
theorem test_wf_and_b : Instr.wellFormed prototypeParams (.and false .awaited .awaited (.given 0)) = false := by decide
theorem test_wf_not_r : Instr.wellFormed prototypeParams (.not false (.given 0) (.given 1) (.given 2)) = false := by decide
theorem test_wf_not_a : Instr.wellFormed prototypeParams (.not false (.given 3) (.given 0) (.given 2)) = false := by decide
theorem test_wf_not_b : Instr.wellFormed prototypeParams (.not false (.given 3) (.given 1) (.given 0)) = false := by decide
theorem test_wf_lseq_r : Instr.wellFormed prototypeParams (.lseq false (.given 0) (.given 1) (.given 5)) = false := by decide
theorem test_wf_lseq_a : Instr.wellFormed prototypeParams (.lseq false (.given 3) (.given 0) (.given 5)) = false := by decide
theorem test_wf_ls_r : Instr.wellFormed prototypeParams (.ls false (.given 0) (.given 1) (.given 5)) = false := by decide
theorem test_wf_ls_a : Instr.wellFormed prototypeParams (.ls false (.given 3) (.given 0) (.given 5)) = false := by decide
theorem test_wf_greq_r : Instr.wellFormed prototypeParams (.greq false (.given 0) (.given 1) .awaited) = false := by decide
theorem test_wf_greq_a : Instr.wellFormed prototypeParams (.greq false (.given 3) (.given 0) .awaited) = false := by decide
theorem test_wf_gr_r : Instr.wellFormed prototypeParams (.gr false (.given 0) (.given 1) (.given 5)) = false := by decide
theorem test_wf_gr_a : Instr.wellFormed prototypeParams (.gr false (.given 3) (.given 0) (.given 5)) = false := by decide
theorem test_wf_dels : Instr.wellFormed prototypeParams (.dels false (.given 0)) = false := by decide
theorem test_wf_next : Instr.wellFormed prototypeParams (.next false (.given 0) (.given 5)) = false := by decide
theorem test_wf_prev : Instr.wellFormed prototypeParams (.prev false (.given 0) (.given 5)) = false := by decide
theorem test_wf_nsm : Instr.wellFormed prototypeParams (.nsm false (.given 0) .awaited) = false := by decide
theorem test_wf_ngr : Instr.wellFormed prototypeParams (.ngr false (.given 0) (.given 5)) = false := by decide
theorem test_wf_jt : Instr.wellFormed prototypeParams (.jt true (.given 65536)) = false := by decide
theorem test_wf_jt_last : Instr.wellFormed prototypeParams (.jt true (.given 65535)) = true := by decide

/-! ### Decoding: the slot images of spec/95_test_vectors.md -/

/-- X1, in both bit orders. -/
theorem test_decode_X1 : decode prototypeParams 0x1e0000000000000000000000000000000000 = .ok (.min false .awaited) ∧
    decode lowParams 0x000000000000000000000000000000000063 = .ok (.min false .awaited) := by decide

/-- X2, in both bit orders. -/
theorem test_decode_X2 : decode prototypeParams 0x120000000000000000010000000000000000 = .ok (.ins false .awaited (.given 1) .awaited) ∧
    decode lowParams 0x000000000000000000000000000000010042 = .ok (.ins false .awaited (.given 1) .awaited) := by decide

/-- X3, in both bit orders. -/
theorem test_decode_X3 : decode prototypeParams 0x178100000000000000020000000000000003 = .ok (.ins true (.given 1) (.given 2) (.given 3)) ∧
    decode lowParams 0x0000000000000003000000000000000221e2 = .ok (.ins true (.given 1) (.given 2) (.given 3)) := by decide

/-- X4, in both bit orders. -/
theorem test_decode_X4 : decode prototypeParams 0x170100000000000000020000000000000003 = .ok (.ins false (.given 1) (.given 2) (.given 3)) ∧
    decode lowParams 0x0000000000000003000000000000000220e2 = .ok (.ins false (.given 1) (.given 2) (.given 3)) := by decide

/-- X5, in both bit orders. -/
theorem test_decode_X5 : decode prototypeParams 0x2c0000000000000000000000000000000000 = .ok (.srch false .awaited .awaited) ∧
    decode lowParams 0x000000000000000000000000000000000025 = .ok (.srch false .awaited .awaited) := by decide

/-- X8, in both bit orders. -/
theorem test_decode_X8 : decode prototypeParams 0x2d8100000000000000000000000000000000 = .ok (.srch true (.given 1) .awaited) ∧
    decode lowParams 0x0000000000000000000000000000000021a5 = .ok (.srch true (.given 1) .awaited) := by decide

/-- X9, in both bit orders. -/
theorem test_decode_X9 : decode prototypeParams 0x108000000000000000000000000000000000 = .ok (.ins true .awaited .awaited .awaited) ∧
    decode lowParams 0x000000000000000000000000000000000102 = .ok (.ins true .awaited .awaited .awaited) := by decide

/-- X10, in both bit orders. -/
theorem test_decode_X10 : decode prototypeParams 0x138100000000000000020000000000000000 = .ok (.ins true (.given 1) (.given 2) .awaited) ∧
    decode lowParams 0x0000000000000000000000000000000221c2 = .ok (.ins true (.given 1) (.given 2) .awaited) := by decide

/-- X12, in both bit orders. -/
theorem test_decode_X12 : decode prototypeParams 0x0f8100000000000000020000000000000000 = .ok (.del true (.given 1) (.given 2)) ∧
    decode lowParams 0x0000000000000000000000000000000221e1 = .ok (.del true (.given 1) (.given 2)) := by decide

/-- X13, in both bit orders. -/
theorem test_decode_X13 : decode prototypeParams 0x7f0600000000000000000000000000000000 = .ok (.dels false (.given 6)) ∧
    decode lowParams 0x00000000000000000000000000000000c0ef = .ok (.dels false (.given 6)) := by decide

/-- X14, in both bit orders. -/
theorem test_decode_X14 : decode prototypeParams 0x7a8000000000000000000000000000000000 = .ok (.dels true .awaited) ∧
    decode lowParams 0x00000000000000000000000000000000014f = .ok (.dels true .awaited) := by decide

/-- X16, in both bit orders. -/
theorem test_decode_X16 : decode prototypeParams 0x278300000000000000000000000000000000 = .ok (.max true (.given 3)) ∧
    decode lowParams 0x0000000000000000000000000000000061e4 = .ok (.max true (.given 3)) := by decide

/-- X17, in both bit orders. -/
theorem test_decode_X17 : decode prototypeParams 0x5f8302000000000000000100000000000000 = .ok (.lseq true (.given 3) (.given 2) (.given 1)) ∧
    decode lowParams 0x0000000000000000000000000000014061eb = .ok (.lseq true (.given 3) (.given 2) (.given 1)) := by decide

/-- X18, in both bit orders. -/
theorem test_decode_X18 : decode prototypeParams 0x370300000000000000000000000000000000 = .ok (.sq false (.given 3)) ∧
    decode lowParams 0x0000000000000000000000000000000060e6 = .ok (.sq false (.given 3)) := by decide

/-- E1, in both bit orders. -/
theorem test_decode_E1 : decode prototypeParams 0x2f07ffffffffffffffff0000000000000000 = .ok (.srch false (.given 7) (.given 0xFFFFFFFFFFFFFFFF)) ∧
    decode lowParams 0x0000000000000000ffffffffffffffffe0e5 = .ok (.srch false (.given 7) (.given 0xFFFFFFFFFFFFFFFF)) := by decide

/-- E2, in both bit orders. -/
theorem test_decode_E2 : decode prototypeParams 0x17078000000000000000ffffffffffffffff = .ok (.ins false (.given 7) (.given 0x8000000000000000) (.given 0xFFFFFFFFFFFFFFFF)) ∧
    decode lowParams 0xffffffffffffffff8000000000000000e0e2 = .ok (.ins false (.given 7) (.given 0x8000000000000000) (.given 0xFFFFFFFFFFFFFFFF)) := by decide

/-- E3, in both bit orders. -/
theorem test_decode_E3 : decode prototypeParams 0x17820123456789abcdeffedcba9876543210 = .ok (.ins true (.given 2) (.given 0x0123456789ABCDEF) (.given 0xFEDCBA9876543210)) ∧
    decode lowParams 0xfedcba98765432100123456789abcdef41e2 = .ok (.ins true (.given 2) (.given 0x0123456789ABCDEF) (.given 0xFEDCBA9876543210)) := by decide

/-- E4, in both bit orders. -/
theorem test_decode_E4 : decode prototypeParams 0x0f0100000000000000050000000000000000 = .ok (.del false (.given 1) (.given 5)) ∧
    decode lowParams 0x0000000000000000000000000000000520e1 = .ok (.del false (.given 1) (.given 5)) := by decide

/-- E5, in both bit orders. -/
theorem test_decode_E5 : decode prototypeParams 0x1f0100000000000000000000000000000000 = .ok (.min false (.given 1)) ∧
    decode lowParams 0x0000000000000000000000000000000020e3 = .ok (.min false (.given 1)) := by decide

/-- E7, in both bit orders. -/
theorem test_decode_E7 : decode prototypeParams 0x3f0100000000000000000000000000000000 = .ok (.cnt false (.given 1)) ∧
    decode lowParams 0x0000000000000000000000000000000020e7 = .ok (.cnt false (.given 1)) := by decide

/-- E8, in both bit orders. -/
theorem test_decode_E8 : decode prototypeParams 0x3e8000000000000000000000000000000000 = .ok (.cnt true .awaited) ∧
    decode lowParams 0x000000000000000000000000000000000167 = .ok (.cnt true .awaited) := by decide

/-- E10, in both bit orders. -/
theorem test_decode_E10 : decode prototypeParams 0x870100000000000000020000000000000000 = .ok (.next false (.given 1) (.given 2)) ∧
    decode lowParams 0x0000000000000000000000000000000220f0 = .ok (.next false (.given 1) (.given 2)) := by decide

/-- E11, in both bit orders. -/
theorem test_decode_E11 : decode prototypeParams 0x8f0100000000000000050000000000000000 = .ok (.prev false (.given 1) (.given 5)) ∧
    decode lowParams 0x0000000000000000000000000000000520f1 = .ok (.prev false (.given 1) (.given 5)) := by decide

/-- E12, in both bit orders. -/
theorem test_decode_E12 : decode prototypeParams 0x950100000000000000000000000000000000 = .ok (.nsm false (.given 1) .awaited) ∧
    decode lowParams 0x0000000000000000000000000000000020b2 = .ok (.nsm false (.given 1) .awaited) := by decide

/-- E13, in both bit orders. -/
theorem test_decode_E13 : decode prototypeParams 0x9f8100000000000000060000000000000000 = .ok (.ngr true (.given 1) (.given 6)) ∧
    decode lowParams 0x0000000000000000000000000000000621f3 = .ok (.ngr true (.given 1) (.given 6)) := by decide

/-- E14, in both bit orders. -/
theorem test_decode_E14 : decode prototypeParams 0x4f0301020000000000000000000000000000 = .ok (.and false (.given 3) (.given 1) (.given 2)) ∧
    decode lowParams 0x0000000000000000000000000000402060e9 = .ok (.and false (.given 3) (.given 1) (.given 2)) := by decide

/-- E15, in both bit orders. -/
theorem test_decode_E15 : decode prototypeParams 0x470301020000000000000000000000000000 = .ok (.or false (.given 3) (.given 1) (.given 2)) ∧
    decode lowParams 0x0000000000000000000000000000402060e8 = .ok (.or false (.given 3) (.given 1) (.given 2)) := by decide

/-- E16, in both bit orders. -/
theorem test_decode_E16 : decode prototypeParams 0x578401020000000000000000000000000000 = .ok (.not true (.given 4) (.given 1) (.given 2)) ∧
    decode lowParams 0x0000000000000000000000000000402081ea = .ok (.not true (.given 4) (.given 1) (.given 2)) := by decide

/-- E17, in both bit orders. -/
theorem test_decode_E17 : decode prototypeParams 0x4a0001000000000000000000000000000000 = .ok (.and false .awaited (.given 1) .awaited) ∧
    decode lowParams 0x000000000000000000000000000000200049 = .ok (.and false .awaited (.given 1) .awaited) := by decide

/-- E18, in both bit orders. -/
theorem test_decode_E18 : decode prototypeParams 0x670301000000000000000500000000000000 = .ok (.ls false (.given 3) (.given 1) (.given 5)) ∧
    decode lowParams 0x0000000000000000000000000000052060ec = .ok (.ls false (.given 3) (.given 1) (.given 5)) := by decide

/-- E19, in both bit orders. -/
theorem test_decode_E19 : decode prototypeParams 0x5f0301000000000000000500000000000000 = .ok (.lseq false (.given 3) (.given 1) (.given 5)) ∧
    decode lowParams 0x0000000000000000000000000000052060eb = .ok (.lseq false (.given 3) (.given 1) (.given 5)) := by decide

/-- E20, in both bit orders. -/
theorem test_decode_E20 : decode prototypeParams 0x770301000000000000000500000000000000 = .ok (.gr false (.given 3) (.given 1) (.given 5)) ∧
    decode lowParams 0x0000000000000000000000000000052060ee = .ok (.gr false (.given 3) (.given 1) (.given 5)) := by decide

/-- E21, in both bit orders. -/
theorem test_decode_E21 : decode prototypeParams 0x6b0301000000000000000000000000000000 = .ok (.greq false (.given 3) (.given 1) .awaited) ∧
    decode lowParams 0x0000000000000000000000000000002060cd = .ok (.greq false (.given 3) (.given 1) .awaited) := by decide

/-- E22, in both bit orders. -/
theorem test_decode_E22 : decode prototypeParams 0x118100000000000000000000000000000000 = .ok (.ins true (.given 1) .awaited .awaited) ∧
    decode lowParams 0x000000000000000000000000000000002182 = .ok (.ins true (.given 1) .awaited .awaited) := by decide

/-- E23, in both bit orders. -/
theorem test_decode_E23 : decode prototypeParams 0x858100000000000000000000000000000000 = .ok (.next true (.given 1) .awaited) ∧
    decode lowParams 0x0000000000000000000000000000000021b0 = .ok (.next true (.given 1) .awaited) := by decide

/-- E24, in both bit orders. -/
theorem test_decode_E24 : decode prototypeParams 0xa40000000000000000000000000000000000 = .ok (.jt false .awaited) ∧
    decode lowParams 0x000000000000000000000000000000000034 = .ok (.jt false .awaited) := by decide

/-- E25, in both bit orders. -/
theorem test_decode_E25 : decode prototypeParams 0xa60001000000000000000000000000000000 = .ok (.jt false (.given 2)) ∧
    decode lowParams 0x000000000000000000000000000000000474 = .ok (.jt false (.given 2)) := by decide

/-- E26, in both bit orders. -/
theorem test_decode_E26 : decode prototypeParams 0xa70000800000000000000000000000000000 = .ok (.jt true (.given 1)) ∧
    decode lowParams 0x0000000000000000000000000000000002f4 = .ok (.jt true (.given 1)) := by decide

/-- E27, in both bit orders. -/
theorem test_decode_E27 : decode prototypeParams 0xa50000000000000000000000000000000000 = .ok (.jt true .awaited) ∧
    decode lowParams 0x0000000000000000000000000000000000b4 = .ok (.jt true .awaited) := by decide

/-- E31: the N field is ignored. -/
theorem test_decode_E31 : decode prototypeParams 0x27fb00000000000000000000000000000000 = .ok (.max true (.given 3)) := by
  decide

/-- E32: unused tags are ignored. -/
theorem test_decode_E32 : decode prototypeParams 0x218300000000000000000000000000000000 = .ok (.max true (.given 3)) := by
  decide

/-- E33: structure 0 is refused when the command is executed (U1). -/
theorem test_E33 : decode prototypeParams 0x278000000000000000000000000000000000 = .ok (.max true (.given 0)) ∧
    exec (.max true (.given 0)) s0 = .refused .structureZero := ⟨by decide, rfl⟩

/-- E34: OPC 0x15 is unassigned when OPC_JT is another value (U2). -/
theorem test_decode_E34 : decode prototypeParams 0xaf0000000000000000000000000000000000 =
    .error (.unassignedOpcode 0x15) := by decide

/-- E26 and X13 encode to their images. -/
theorem test_encode : encode prototypeParams (.jt true (.given 1)) = 0xa70000800000000000000000000000000000 ∧
    encode prototypeParams (.dels true .awaited) = 0x7a8000000000000000000000000000000000 ∧
    encode lowParams (.dels false (.given 6)) = 0xc0ef := by decide

/-- The table's numbering: X16 as a 16-bit number, E26 as a 25-bit one padded to 32. -/
theorem test_table_word : decodeTableWord 16 0x2783 = some (.max true (.given 3)) ∧
    decodeTableWord 32 0xa7000080 = some (.jt true (.given 1)) := by decide

/-! ### CMD words W1 to W8 (spec/95_test_vectors.md section 2.1) -/

theorem test_cmd_W1 : cmdFields (suggestedCmdLayout .firstFieldHigh) 0x10010000 = ⟨0x02, false, 1, 0, 0⟩ ∧
    cmdFields (suggestedCmdLayout .firstFieldLow) 0x00002002 = ⟨0x02, false, 1, 0, 0⟩ := by decide

theorem test_cmd_W2 : cmdFields (suggestedCmdLayout .firstFieldHigh) 0x28810000 = ⟨0x05, true, 1, 0, 0⟩ ∧
    cmdFields (suggestedCmdLayout .firstFieldLow) 0x00002105 = ⟨0x05, true, 1, 0, 0⟩ := by decide

theorem test_cmd_W3 : cmdFields (suggestedCmdLayout .firstFieldHigh) 0x08010000 = ⟨0x01, false, 1, 0, 0⟩ ∧
    cmdFields (suggestedCmdLayout .firstFieldLow) 0x00002001 = ⟨0x01, false, 1, 0, 0⟩ := by decide

theorem test_cmd_W4 : cmdFields (suggestedCmdLayout .firstFieldHigh) 0x18810000 = ⟨0x03, true, 1, 0, 0⟩ ∧
    cmdFields (suggestedCmdLayout .firstFieldLow) 0x00002103 = ⟨0x03, true, 1, 0, 0⟩ := by decide

theorem test_cmd_W5 : cmdFields (suggestedCmdLayout .firstFieldHigh) 0x38810000 = ⟨0x07, true, 1, 0, 0⟩ ∧
    cmdFields (suggestedCmdLayout .firstFieldLow) 0x00002107 = ⟨0x07, true, 1, 0, 0⟩ := by decide

theorem test_cmd_W6 : cmdFields (suggestedCmdLayout .firstFieldHigh) 0x78060000 = ⟨0x0f, false, 6, 0, 0⟩ ∧
    cmdFields (suggestedCmdLayout .firstFieldLow) 0x0000c00f = ⟨0x0f, false, 6, 0, 0⟩ := by decide

theorem test_cmd_W7 : cmdFields (suggestedCmdLayout .firstFieldHigh) 0x48030102 = ⟨0x09, false, 3, 1, 2⟩ ∧
    cmdFields (suggestedCmdLayout .firstFieldLow) 0x40206009 = ⟨0x09, false, 3, 1, 2⟩ := by decide

theorem test_cmd_W8 : cmdFields (suggestedCmdLayout .firstFieldHigh) 0x58830200 = ⟨0x0b, true, 3, 2, 0⟩ ∧
    cmdFields (suggestedCmdLayout .firstFieldLow) 0x0040610b = ⟨0x0b, true, 3, 2, 0⟩ := by decide

/-! ### One command (spec/95_test_vectors.md sections 1, 2.2 to 2.5) -/

/-- A1, and J12 on the MISD stream with the datum of the key received: IP goes to the next slot. -/
theorem test_srch : gives (exec (.srch true (.given 1) (.given 5)) s0) (fun t =>
      returns true .ok 5 50 t && t.s2c.map (·.key) == [5] && t.s2c.map (·.value) == [50] && t.ip == 0) = true ∧
    gives (exec (.srch false (.given 1) .awaited)
      { misd s0 with ip := 4, wait := ⟨.idle, .received 5, .idle⟩ }) (fun t =>
      returns true .ok 5 50 t && t.s2c == [] && t.ip == 5 && t.wait == TagWait.idle) = true := by decide

/-- A2 to A4. -/
theorem test_srch_fails : gives (exec (.srch false (.given 1) (.given 4)) s0) (shows false .eNoKey) = true ∧
    gives (exec (.srch false (.given 3) (.given 5)) s0) (shows false .eNoStruct) = true ∧
    gives (exec (.srch false (.given 1) (.given 0)) s0) (shows false .eNoKey) = true := by decide

/-- A6 and A7, and A5: a new structure and the greatest key. -/
theorem test_ins : gives (exec (.ins false (.given 1) (.given 2) (.given 3)) s0) (fun t =>
      shows true .okUpdated t && t.structure? 1 == some [(2, 3), (5, 50), (9, 90)]) = true ∧
    gives (exec (.ins true (.given 4) (.given 7) (.given 70)) s0) (fun t =>
      shows true .okInserted t && t.structure? 4 == some [(7, 70)] && t.s2c.length == 1) = true ∧
    gives (exec (.ins false (.given 7) (.given 0xFFFFFFFFFFFFFFFF) (.given 0)) sE) (fun t =>
      shows true .okInserted t && t.structure? 7 == some [(0xFFFFFFFFFFFFFFFF, 0)]) = true := by decide

/-- A8, A9, A10, A11: eviction, and no space for a new key only. -/
theorem test_ins_space :
    gives (exec (.ins false (.given 1) (.given 4) (.given 40)) { s0 with insAnswers := [.evict] }) (fun t =>
      returns false .eEvicted 9 90 t && t.structure? 1 == some [(2, 20), (4, 40), (5, 50)]) = true ∧
    gives (exec (.ins false (.given 1) (.given 12) (.given 120)) { s0 with insAnswers := [.evict] }) (fun t =>
      returns false .eEvicted 12 120 t && t.structure? 1 == some map1) = true ∧
    gives (exec (.ins false (.given 1) (.given 4) (.given 40)) { s0 with insAnswers := [.fail] }) (fun t =>
      shows false .eNoSpace t && t.structure? 1 == some map1) = true ∧
    gives (exec (.ins false (.given 1) (.given 5) (.given 51)) { s0 with insAnswers := [.fail] }) (fun t =>
      shows true .okUpdated t && t.lookup 1 5 == some 51) = true := by decide

/-- A13 and A16: the last key leaves the structure absent when EMPTY_EXISTS is false, empty when it is true. -/
theorem test_del : gives (exec (.del true (.given 1) (.given 2)) s0) (fun t =>
      returns true .ok 2 20 t && t.structure? 1 == some [(5, 50), (9, 90)]) = true ∧
    gives (exec (.del false (.given 1) (.given 2)) (machine (some [(2, 20)]) none)) (fun t =>
      returns true .ok 2 20 t && t.structure? 1 == none) = true ∧
    gives (exec (.del false (.given 1) (.given 2))
      { machine (some [(2, 20)]) none with params := { prototypeParams with emptyExists := true } }) (fun t =>
      t.structure? 1 == some []) = true := by decide

/-- A14 and A15. -/
theorem test_del_fails : gives (exec (.del false (.given 1) (.given 4)) s0) (fun t =>
      shows false .eNoKey t && t.structure? 1 == some map1) = true ∧
    gives (exec (.del false (.given 2) (.given 5)) s0) (shows false .eNoStruct) = true := by decide

/-- A17 and A18. -/
theorem test_dels : gives (exec (.dels false (.given 1)) s0) (fun t =>
      shows true .ok t && t.structure? 1 == none) = true ∧
    gives (exec (.dels false (.given 6)) s0) (fun t =>
      shows false .eNoStruct t && t.structure? 1 == some map1) = true := by decide

/-- B1 and B6: unsigned order. -/
theorem test_min : gives (exec (.min false (.given 1)) s0) (returns true .ok 2 20) = true ∧
    gives (exec (.min false (.given 1)) (machine (some [(0, 1), (0xFFFFFFFFFFFFFFFF, 2)]) none))
      (returns true .ok 0 1) = true := by decide

/-- B5: MIN of an empty structure is refused (U6). -/
theorem test_min_empty : exec (.min false (.given 1)) (machine (some []) none) = .refused .emptyStructure := rfl

/-- B2, B3 and B6. -/
theorem test_max : gives (exec (.max false (.given 1)) s0) (returns true .ok 9 90) = true ∧
    gives (exec (.max true (.given 3)) s0) (fun t => shows false .eNoStruct t && t.s2c.map (·.v) == [false]) = true ∧
    gives (exec (.max false (.given 1)) (machine (some [(0, 1), (0xFFFFFFFFFFFFFFFF, 2)]) none))
      (returns true .ok 0xFFFFFFFFFFFFFFFF 2) = true := by decide

/-- B7 to B10. -/
theorem test_next : gives (exec (.next false (.given 1) (.given 5)) s0) (returns true .ok 9 90) = true ∧
    gives (exec (.next false (.given 1) (.given 9)) s0) (shows false .eNoNeighbour) = true ∧
    gives (exec (.next false (.given 1) (.given 4)) s0) (shows false .eNoKey) = true ∧
    gives (exec (.next false (.given 2) (.given 5)) s0) (shows false .eNoStruct) = true := by decide

/-- B11 to B13. -/
theorem test_prev : gives (exec (.prev false (.given 1) (.given 5)) s0) (returns true .ok 2 20) = true ∧
    gives (exec (.prev false (.given 1) (.given 2)) s0) (shows false .eNoNeighbour) = true ∧
    gives (exec (.prev false (.given 1) (.given 6)) s0) (shows false .eNoKey) = true := by decide

/-- B14 to B17. -/
theorem test_nsm : gives (exec (.nsm false (.given 1) (.given 7)) s0) (returns true .ok 5 50) = true ∧
    gives (exec (.nsm false (.given 1) (.given 5)) s0) (returns true .ok 2 20) = true ∧
    gives (exec (.nsm false (.given 1) (.given 0)) s0) (shows false .eNoNeighbour) = true ∧
    gives (exec (.nsm false (.given 1) (.given 0xFFFFFFFFFFFFFFFF)) s0) (returns true .ok 9 90) = true := by decide

/-- B18 to B22. -/
theorem test_ngr : gives (exec (.ngr false (.given 1) (.given 3)) s0) (returns true .ok 5 50) = true ∧
    gives (exec (.ngr false (.given 1) (.given 5)) s0) (returns true .ok 9 90) = true ∧
    gives (exec (.ngr false (.given 1) (.given 9)) s0) (shows false .eNoNeighbour) = true ∧
    gives (exec (.ngr false (.given 1) (.given 0)) s0) (returns true .ok 2 20) = true ∧
    gives (exec (.ngr false (.given 4) (.given 1)) s0) (shows false .eNoStruct) = true := by decide

/-- B23 and B24. -/
theorem test_cnt : gives (exec (.cnt false (.given 1)) s0) (fun t =>
      shows true .ok t && t.last.value == 3 && t.last.power == 3) = true ∧
    gives (exec (.cnt false (.given 2)) { s0 with last := { s0.last with power := 7 } }) (fun t =>
      shows false .eNoStruct t && t.last.value == 0 && t.last.power == 0) = true := by decide

/-- As Z1 and Z2, with sources that have no key in common, and Z2's key set. -/
theorem test_and : gives (exec (.and false (.given 3) (.given 1) (.given 2)) (machine (some map1) (some [(7, 77)])))
      (fun t => shows true .ok t && t.structure? 3 == some [(2, 20), (5, 50), (7, 77), (9, 90)]) = true ∧
    gives (exec (.and false (.given 3) (.given 1) (.given 2))
      { s1 with params := { prototypeParams with pairing := .byName } }) (fun t =>
      shows true .ok t && (t.structure? 3).map (List.map (·.1)) == some [5]) = true := by decide

/-- Z8: R exists. -/
theorem test_and_fails : gives (exec (.and false (.given 1) (.given 1) (.given 2)) s1) (fun t =>
    shows false .eRExists t && t.structure? 1 == some map1) = true := by decide

/-- Z3's key set, and as Z4 with sources that have no key in common. -/
theorem test_or : gives (exec (.or false (.given 3) (.given 1) (.given 2)) s1) (fun t =>
      shows true .ok t && (t.structure? 3).map (List.map (·.1)) == some [5]) = true ∧
    gives (exec (.or false (.given 3) (.given 1) (.given 2))
      { machine (some map1) (some [(7, 77)]) with params := { prototypeParams with pairing := .byName } }) (fun t =>
      shows true .ok t && t.structure? 3 == some [(2, 20), (5, 50), (7, 77), (9, 90)]) = true := by decide

/-- Z9: a source does not exist. -/
theorem test_or_fails : gives (exec (.or false (.given 3) (.given 1) (.given 4)) s1) (fun t =>
    shows false .eNoStruct t && t.structure? 3 == none) = true := by decide

/-- Z5, Z6 and Z7. -/
theorem test_not : gives (exec (.not false (.given 3) (.given 1) (.given 2)) s1) (fun t =>
      shows true .ok t && t.structure? 3 == some [(2, 20), (9, 90)] && t.structure? 1 == some map1) = true ∧
    gives (exec (.not false (.given 3) (.given 2) (.given 1)) s1) (fun t =>
      t.structure? 3 == some [(7, 77)]) = true ∧
    gives (exec (.not false (.given 3) (.given 1) (.given 1)) s1) (fun t =>
      shows true .ok t && t.structure? 3 == none) = true := by decide

/-- Z11: no space leaves the other structures alone. -/
theorem test_not_no_space : gives (exec (.not false (.given 3) (.given 1) (.given 2)) { s1 with setopAnswers := [.fail] })
    (fun t => shows false .eNoSpace t && t.structure? 1 == some map1 && t.structure? 2 == some map2) = true := by decide

/-- Z13 and Z17. -/
theorem test_ls : gives (exec (.ls false (.given 3) (.given 1) (.given 5)) s1) (fun t =>
      shows true .ok t && t.structure? 3 == some [(2, 20)] && t.structure? 1 == some map1) = true ∧
    gives (exec (.ls false (.given 3) (.given 1) (.given 0)) s1) (fun t =>
      shows true .ok t && t.structure? 3 == none) = true := by decide

/-- Z14, Z18, Z21 and Z22. -/
theorem test_lseq : gives (exec (.lseq false (.given 3) (.given 1) (.given 5)) s1) (fun t =>
      shows true .ok t && t.structure? 3 == some [(2, 20), (5, 50)]) = true ∧
    gives (exec (.lseq false (.given 3) (.given 1) (.given 0xFFFFFFFFFFFFFFFF)) s1) (fun t =>
      t.structure? 3 == some map1) = true ∧
    gives (exec (.lseq false (.given 2) (.given 1) (.given 5)) s1) (fun t =>
      shows false .eRExists t && t.structure? 2 == some map2) = true ∧
    gives (exec (.lseq false (.given 3) (.given 4) (.given 5)) s1) (shows false .eNoStruct) = true := by decide

/-- Z15 and Z19. -/
theorem test_gr : gives (exec (.gr false (.given 3) (.given 1) (.given 5)) s1) (fun t =>
      shows true .ok t && t.structure? 3 == some [(9, 90)]) = true ∧
    gives (exec (.gr false (.given 3) (.given 1) (.given 0xFFFFFFFFFFFFFFFF)) s1) (fun t =>
      shows true .ok t && t.structure? 3 == none) = true := by decide

/-- Z16 and Z20. -/
theorem test_greq : gives (exec (.greq false (.given 3) (.given 1) (.given 5)) s1) (fun t =>
      shows true .ok t && t.structure? 3 == some [(5, 50), (9, 90)]) = true ∧
    gives (exec (.greq false (.given 3) (.given 1) (.given 0)) s1) (fun t =>
      t.structure? 3 == some map1) = true := by decide

/-- Z24 and Z25. -/
theorem test_sq : gives (exec (.sq false (.given 1)) s1) (fun t =>
      shows true .ok t && t.structure? 1 == some map1 && t.structure? 2 == some map2) = true ∧
    gives (exec (.sq false (.given 3)) s1) (shows false .eNoStruct) = true := by decide

/-- J1, J2, J3, J5 and J7: IP afterwards. -/
theorem test_jt : gives (exec (.jt true (.given 2)) { misd s0 with ip := 4 }) (fun t => t.ip == 2) = true ∧
    gives (exec (.jt false (.given 2)) { misd s0 with ip := 4, wait := ⟨.received 1, .idle, .idle⟩ }) (fun t =>
      t.ip == 2 && t.wait == TagWait.idle) = true ∧
    gives (exec (.jt false (.given 2)) { misd s0 with ip := 4, wait := ⟨.received 0, .idle, .idle⟩ }) (fun t =>
      t.ip == 5) = true ∧
    gives (exec (.jt true .awaited) { misd s0 with ip := 4, wait := ⟨.idle, .received 7, .idle⟩ }) (fun t =>
      t.ip == 7) = true ∧
    gives (exec (.jt false .awaited) { misd s0 with ip := 4, wait := ⟨.received 0, .awaited, .idle⟩ }) (fun t =>
      t.ip == 4 && t.wait == ⟨.received 0, .awaited, .idle⟩) = true := by decide

/-- J8: a datum other than 0 or 1 is refused (U10). -/
theorem test_jt_datum : exec (.jt false (.given 2)) { misd s0 with ip := 4, wait := ⟨.received 2, .idle, .idle⟩ } =
    .refused (.jtTagDatum 2) := rfl

/-- J13: only the low three bits of a datum name the structure. -/
theorem test_datum_low_bits : gives (exec (.srch false .awaited .awaited)
    { misd s0 with ip := 4, wait := ⟨.received 0xF9, .received 5, .idle⟩ }) (returns true .ok 5 50) = true := by decide

/-! ### The host (spec/95_test_vectors.md section 2.6) -/

/-- Q1 and Q2: the CMD write of INS, and the queued command it gives. -/
theorem test_cmd : gives (State.hostAccess (.write 0x40 4 0x10010000) { sE with keyW := 2, valueW := 3 }) (fun t =>
      t.c2s == [⟨0x02, false, 1, 0, 0, 2, 3⟩] && t.ready == false) = true ∧
    gives (step { sE with c2s := [⟨0x02, false, 1, 0, 0, 2, 3⟩] }) (fun t =>
      shows true .okInserted t && t.structure? 1 == some [(2, 3)] && t.ready) = true := by decide

/-- Q7: a full result queue loses its oldest entry. -/
theorem test_overwrite : gives (exec (.max true (.given 1)) { s0 with
    params := { prototypeParams with s2cDepth := 1 }, s2c := [⟨true, .ok, 0, 2, 20⟩] }) (fun t =>
      t.s2c.map (·.key) == [9] && t.owr) = true := by decide

/-- Q9 and Q11: a CMD write to a full C2S. -/
theorem test_overflow :
    gives (State.hostAccess (.write 0x40 4 0x10010000) { sE with
      params := { prototypeParams with c2sDepth := 1 }, c2s := [⟨1, false, 1, 0, 0, 0, 0⟩], control0 := 0x40 }) (fun t =>
      t.ovfFlag && t.c2s.length == 1) = true ∧
    gives (State.hostAccess (.write 0x40 4 0x10010000) { sE with
      params := { prototypeParams with c2sDepth := 1 }, c2s := [⟨1, false, 1, 0, 0, 0, 0⟩] }) (fun t =>
      t.ovfFlag == false && t.c2s.length == 1) = true := by decide

/-- Q13 and Q15: DR_FLAG only while enabled. -/
theorem test_data_ready : gives (exec (.sq false (.given 3)) { s0 with control0 := 0x20 }) (·.drFlag) = true ∧
    gives (exec (.sq false (.given 1)) s0) (fun t => t.drFlag == false) = true := by decide

/-- Q16 and Q20: a read of 0x44 is KEYQ_H, a write to 0x90 is refused. -/
theorem test_window : gives (State.hostAccess (.read 0x44 4) { s0 with
      control0 := 0x31, s2c := [⟨true, .ok, 0, 0x500000002, 20⟩] }) (fun t => t.sys2pci == [.word 5]) = true ∧
    State.hostAccess (.write 0x90 4 1) s0 = .refused (.noWriteSide 0x90) ∧
    State.hostAccess (.write 0x40 2 1) s0 = .refused (.badWindowAccess 0x40 2) := ⟨by decide, rfl, rfl⟩

/-- Q19: CONTROL1 bit 0. -/
theorem test_software_reset : gives (State.hostAccess (.write 0x48 4 1) { s1 with
    control0 := 0x21, ip := 3, lcm := [(0, 7)], drFlag := true, owr := true }) (fun t =>
      t.structure? 1 == none && t.ip == 0 && t.control0 == 0x21 && t.lcm == [(0, 7)] && !t.drFlag && !t.owr) = true := by
  decide

/-- A step with the word of `maxq 3` placed where the machine fetches runs it. -/
theorem test_fetch_word : gives (step (State.reset.withFetchWord 16 0x2783)) (fun t =>
    shows false .eNoStruct t && t.ip == 1 && t.s2c.length == 1) = true := by decide

/-- The `encoding` and the `match` column of the table give the same command. -/
theorem test_table_numbers : decodeTableWord 80 0x08000000000000000000 = some (.del false .awaited .awaited) ∧
    decodeTableWord 80 0x080000000000000000000000000000000000 = some (.del false .awaited .awaited) ∧
    decodeTableWord 144 0x080000000000000000000000000000000000 = some (.del false .awaited .awaited) := by decide

/-- Table 1.2: STR_VAL is LEAF_NUM x VIRT_NUM^8, and a CPU command is a word, a key and a value. -/
theorem test_constants : Config.strVal = 100663296 ∧ Config.cmdCpuVal = 32 + Config.keyVal + Config.dataVal ∧
    Config.extMem = 4294967296 ∧ Config.msb = .littleEndian := by decide

/-- U11: the stop is refused while the datum is awaited; after it came the command stays fetched and runs once the mode
is on again. -/
theorem test_stop_after_datum :
    gives (State.hostAccess (.write 0x44 4 0) { s0 with
      control0 := 1, wait := ⟨.idle, .received 5, .idle⟩, fetched := some 0x2d0100000000000000000000000000000000 })
      (fun t => !t.misdEnabled && t.fetched.isSome && t.enabledAgents == []) = true ∧
    gives (step { s0 with
      control0 := 1, wait := ⟨.idle, .received 5, .idle⟩, fetched := some 0x2d0100000000000000000000000000000000 })
      (fun t => returns true .ok 5 50 t && t.fetched == none && t.ip == 1) = true := by decide

/-! ### Witnesses: states and operands that meet the hypotheses of the statements -/

theorem s1_structure : ∀ n, s1.structure? n = if n = 1 then some map1 else if n = 2 then some map2 else none := by
  decide

theorem map_ok {m : PairMap} (h : m.Sorted) (hl : m.length < 4) (hne : m ≠ []) :
    m.Sorted ∧ m.length ≤ Config.strVal ∧ (m = [] → s1.params.emptyExists = true) :=
  ⟨h, by rw [Config.strVal_eq]; omega, fun e => absurd e hne⟩

theorem s1_ok : s1.StructuresOk := by
  intro n m h
  rw [s1_structure] at h
  split at h
  · obtain rfl := Option.some.inj h; exact map_ok (by decide) (by decide) (by decide)
  · split at h
    · obtain rfl := Option.some.inj h; exact map_ok (by decide) (by decide) (by decide)
    · simp at h

/-- A machine whose structure 1 exists and is empty. -/
def sEmpty : State := { machine (some []) none with params := { prototypeParams with emptyExists := true } }

theorem sEmpty_structure : ∀ n, sEmpty.structure? n = if n = 1 then some [] else none := by decide

theorem sEmpty_ok : sEmpty.StructuresOk := by
  intro n m h
  rw [sEmpty_structure] at h
  split at h
  · obtain rfl := Option.some.inj h; exact ⟨List.Pairwise.nil, by decide, fun _ => rfl⟩
  · simp at h

/-- In S1 the keys of structure 1 are 2, 5 and 9. -/
theorem s1_keys {j : Key} {x : Value} (h : s1.lookup 1 j = some x) : j = 2 ∨ j = 5 ∨ j = 9 := by
  have := (s1_ok.lookup_iff (n := 1) (m := map1) (by decide) j x).mp h
  simp [map1] at this
  tauto

/-- S1 with the MISD mode on, a load of LCM done and the slot of IP holding `srch 1,?`. -/
def running : State :=
  { s1 with control0 := 1, lcm := [(0, 0x2d0100000000000000000000000000000000)], turns := [.misd] }

/-- `running` while its command waits for the key, with a CONTROL0 write that stops the mode and a CONTROL1 write that
abandons the wait pending. -/
def waiting : State :=
  { running with wait := ⟨.idle, .awaited, .idle⟩, fetched := some 0x2d0100000000000000000000000000000000,
                 pci2sys := [.write 0x44 4 0, .write 0x48 4 0x40], turns := [] }

/-- `waiting` with the datum come and nothing pending. -/
def answered : State := { waiting with wait := ⟨.idle, .received 5, .idle⟩, pci2sys := [] }

theorem waiting_inv : waiting.Inv where
  params := by decide
  structures := s1_ok.congr (fun _ => rfl) rfl
  lcm := ⟨by decide, by decide⟩
  queues := ⟨by decide, by decide, by decide⟩
  results := ⟨rfl, fun c h => by simp [waiting, running, s1, machine, State.reset] at h, by decide⟩
  dma := by unfold State.DmaOk; decide
  wait := ⟨by decide, fun c h => by obtain rfl := Option.some.inj h; exact ⟨.srch false (.given 1) .awaited, rfl⟩,
    fun _ => .inl (by decide)⟩

theorem witness_DecodeInvertsEncode : prototypeParams.wf ∧
    Instr.wellFormed prototypeParams (.jt true (.given 65535)) = true ∧ lowParams.wf ∧
    Instr.wellFormed lowParams (.ins true (.given 7) (.given 0xFFFFFFFFFFFFFFFF) .awaited) = true := by decide

/-- Both sides: the last assigned opcode, OPC_JT, and the opcodes next to them. -/
theorem witness_DecodeRefusesUnassignedOpcodes :
    assignedOpcode 0x13 = true ∧ assignedOpcode 0x01 = true ∧ assignedOpcode 0x14 = false ∧
    prototypeParams.opcJt = 0x14 ∧ assignedOpcode 0x15 = false ∧ prototypeParams.opcJt ≠ 0x15 ∧
    assignedOpcode 0x00 = false := by decide

/-- E35 beside the same slot with the STR field cleared. -/
theorem witness_DecodeIgnoresUnusedBits :
    ∃ (p : Params) (slot slot' : Slot) (f : Format), formatOf p (field p.bitOrder 0 5 slot) = some f ∧
      (∀ w ∈ f.readFields p slot, field p.bitOrder w.1 w.2 slot' = field p.bitOrder w.1 w.2 slot) ∧ slot' ≠ slot :=
  ⟨prototypeParams, 0x268300000000000000000000000000000000, 0x268000000000000000000000000000000000, .fS, by decide,
    by decide, by decide⟩

/-- A command at IP, and one fetched before whose datum has come. -/
theorem witness_StepRunsDecodedCommand : MisdMoves running ∧ running.fetched = none ∧ MisdMoves answered ∧
    answered.fetched = some 0x2d0100000000000000000000000000000000 ∧ running.ip < running.params.lcmSlots ∧
    running.lcm.read running.ip = some 0x2d0100000000000000000000000000000000 ∧
    decode running.params 0x2d0100000000000000000000000000000000 = .ok (.srch false (.given 1) .awaited) := by decide

theorem witness_StepRunsQueuedCommand :
    CoprocessorMoves { running with c2s := [⟨0x05, false, 1, 0, 0, 5, 0⟩], turns := [.coprocessor] } ∧
    CommandEntry.instr ⟨0x05, false, 1, 0, 0, 5, 0⟩ = some (.srch false (.given 1) (.given 5)) := by decide

theorem witness_StepPerformsHostAccess : HostMoves waiting ∧
    waiting.pci2sys = [.write 0x44 4 0, .write 0x48 4 0x40] := by decide

theorem witness_IdleMachineExecutesNothing : s1.rst = false ∧ s1.pci2sys = [] ∧ s1.c2s = [] ∧
    s1.misdEnabled = false ∧ ({ waiting with pci2sys := [] } : State).wait.blocked = true ∧
    ({ waiting with pci2sys := [] } : State).runEnded 0 = true := by decide

/-- The three stops: IP at LCM_SLOTS, the last slot unwritten, and an unassigned opcode in it. -/
theorem witness_FetchStopsByName : running.fetched = none ∧
    MisdMoves { running with ip := 65536 } ∧ running.params.lcmSlots ≤ 65536 ∧
    MisdMoves { running with ip := 65535 } ∧ 65535 < running.params.lcmSlots ∧ running.lcm.read 65535 = none ∧
    MisdMoves { running with ip := 65535, lcm := [(65535, 0xaf0000000000000000000000000000000000)] } ∧
    decode running.params 0xaf0000000000000000000000000000000000 = .error (.unassignedOpcode 0x15) := by decide

theorem witness_StepKeepsInvariant : waiting.Inv ∧ ∃ t, step waiting = .next t :=
  ⟨waiting_inv, _, rfl⟩

theorem witness_HardwareResetClears : ({ waiting with rst := true } : State).rst = true := rfl

/-- A command that changes its destination, 3, and one that has none; the others are not named. -/
theorem witness_CommandsWriteOnlyTheirDestination :
    (∃ t, exec (.not false (.given 3) (.given 1) (.given 2)) s1 = .next t) ∧
    Instr.destination (.not false (.given 3) (.given 1) (.given 2)) = some (.given 3) ∧
    resolve strOfDatum (.given 3) s1.cells.t0 ≠ some 4 ∧
    (∃ t, exec (.cnt false (.given 1)) s1 = .next t) ∧ Instr.destination (.cnt false (.given 1)) = none :=
  ⟨⟨_, rfl⟩, rfl, by decide, ⟨_, rfl⟩, rfl⟩

/-- A CPU command, a ready MISD command, a JT and a command that waits. -/
theorem witness_StreamsAdvance : (∃ t, exec (.cnt false (.given 1)) s1 = .next t) ∧ s1.issuer = .coprocessor ∧
    (∃ t, exec (.cnt false (.given 1)) (misd running) = .next t) ∧
    Instr.ready (.cnt false (.given 1)) (misd running) = true ∧
    (∃ t, exec (.jt true (.given 2)) (misd running) = .next t) ∧
    (∃ t, exec (.srch false (.given 1) .awaited) (misd running) = .next t) ∧
    Instr.ready (.srch false (.given 1) .awaited) (misd running) = false :=
  ⟨⟨_, rfl⟩, rfl, ⟨_, rfl⟩, rfl, ⟨_, rfl⟩, ⟨_, rfl⟩, rfl⟩

theorem witness_UnreadyCommandsWait : (misd running).issuer = .misd ∧ (misd running).params.ddrBist = true ∧
    Instr.ready (.srch false (.given 1) .awaited) (misd running) = false := by decide

theorem witness_CompletedCommandsDeliver : Instr.isJump (.cnt true (.given 1)) = false ∧
    Instr.ready (.cnt true (.given 1)) s1 = true ∧ ∃ t, exec (.cnt true (.given 1)) s1 = .next t :=
  ⟨rfl, rfl, _, rfl⟩

/-- A failure of a lookup, INS without space, and a set operation without space seen from another structure. -/
theorem witness_FailedCommandsKeepStructures :
    (∃ t, exec (.srch false (.given 1) (.given 4)) s1 = .next t ∧ t.last.v = false ∧ t.last.cause = some .eNoKey) ∧
    (∃ t, exec (.ins false (.given 1) (.given 4) (.given 40)) { s1 with insAnswers := [.fail] } = .next t ∧
      t.last.v = false ∧ t.last.cause = some .eNoSpace) ∧
    (∃ t, exec (.not false (.given 3) (.given 1) (.given 2)) { s1 with setopAnswers := [.fail] } = .next t ∧
      t.last.v = false ∧ t.last.cause = some .eNoSpace) ∧ resolve strOfDatum (.given 3) s1.cells.t0 ≠ some 1 :=
  ⟨⟨_, rfl, rfl, rfl⟩, ⟨_, rfl, rfl, rfl⟩, ⟨_, rfl, rfl, rfl⟩, by decide⟩

/-- Each refusal a command can give, as far as the spec gives one. -/
theorem witness_CommandsNeverTrap : exec (.srch false (.given 0) (.given 5)) s1 = .refused .structureZero ∧
    exec (.max false (.given 1)) sEmpty = .refused .emptyStructure ∧
    exec (.jt false (.given 2)) { misd s1 with wait := ⟨.received 2, .idle, .idle⟩ } = .refused (.jtTagDatum 2) ∧
    exec (.sq false (.given 1)) { s1 with params := { prototypeParams with ddrBist := false } } =
      .refused .ddrBistFailed ∧
    exec (.sq false .awaited) s1 = .refused .cpuOperandMissing := ⟨rfl, rfl, rfl, rfl, rfl⟩

/-- Structure 0 by a field and by a datum, and DDR_BIST = 0 for a command of each stream. -/
theorem witness_UnusableCommandsAreRefused :
    (s1.params.ddrBist = true ∧ Instr.ready (.sq false (.given 0)) s1 = true ∧
      some 0#3 ∈ Instr.structureNumbers (.sq false (.given 0)) s1) ∧
    some 0#3 ∈ Instr.structureNumbers (.sq false .awaited) { misd s1 with wait := ⟨.received 8, .idle, .idle⟩ } ∧
    Instr.isJump (.sq false (.given 1)) = false ∧ (misd s1).issuer = .misd ∧
    ({ prototypeParams with ddrBist := false } : Params).ddrBist = false := by decide

/-- The clauses of SRCH: a structure that does not exist, a key that is not held, and a key that is. -/
theorem witness_SearchFindsKey : StrKeyIs s1 (.given 3) (.given 5) 3 5 ∧ s1.present 3 = false ∧
    StrKeyIs s1 (.given 1) (.given 4) 1 4 ∧ s1.present 1 = true ∧ s1.lookup 1 4 = none ∧
    StrKeyIs { misd s1 with wait := ⟨.received 0xF9, .received 9, .idle⟩ } .awaited .awaited 1 9 ∧
    s1.lookup 1 9 = some 90 := by decide

theorem witness_InsertUpdatesHeldKey : StrKeyValueIs s1 (.given 1) (.given 5) (.given 51) 1 5 51 ∧
    s1.lookup 1 5 = some 50 := by decide

theorem witness_InsertAddsNewKey : StrKeyValueIs s1 (.given 7) (.given 0) (.given 1) 7 0 1 ∧ s1.lookup 7 0 = none ∧
    s1.insAnswers.headD (Config.insSpace s1.draws) = .ok ∧ s1.size 7 < Config.strVal := by decide

/-- The new key below the greatest one, and above it. -/
theorem witness_InsertEvictsGreatestKey : s1.StructuresOk ∧
    StrKeyValueIs s1 (.given 1) (.given 4) (.given 40) 1 4 40 ∧ s1.lookup 1 4 = none ∧
    StrKeyValueIs s1 (.given 1) (.given 12) (.given 120) 1 12 120 ∧ s1.lookup 1 12 = none ∧
    ({ s1 with insAnswers := [.evict] } : State).insAnswers.headD (Config.insSpace s1.draws) = .evict :=
  ⟨s1_ok, by decide⟩

/-- A structure of n keys. -/
def keys (n : Nat) : PairMap := (List.range n).map fun i => (BitVec.ofNat 64 i, 0)

theorem keys_get (n : Nat) (h : n < 2 ^ 64 - 1) : (keys n).get 0xFFFFFFFFFFFFFFFF = none := by
  unfold PairMap.get keys
  rw [Option.map_eq_none_iff, List.find?_eq_none]
  intro p hp
  obtain ⟨i, hi, rfl⟩ := List.mem_map.mp hp
  have := List.mem_range.mp hi
  simp only [beq_iff_eq]
  bv_omega

theorem keys_length (n : Nat) : (keys n).length = n := by simp [keys]

/-- A state whose structure 1 holds n keys, and a key it does not hold. -/
theorem full_structure (n : Nat) (h : n < 2 ^ 64 - 1) :
    ∃ s k, StrKeyValueIs s (.given 1) (.given k) (.given 40) 1 k 40 ∧ s.lookup 1 k = none ∧
      n ≤ s.size 1 ∧ s.insAnswers.headD (Config.insSpace s.draws) = .ok :=
  ⟨machine (some (keys n)) none, 0xFFFFFFFFFFFFFFFF, ⟨⟨⟨rfl, rfl, by decide⟩, rfl⟩, rfl⟩, keys_get n h,
    Nat.le_of_eq (keys_length n).symm, rfl⟩

/-- With an answer `fail`, and with a full structure. -/
theorem witness_InsertFailsWithoutSpace :
    (StrKeyValueIs s1 (.given 1) (.given 4) (.given 40) 1 4 40 ∧ s1.lookup 1 4 = none ∧
      ({ s1 with insAnswers := [.fail] } : State).insAnswers.headD (Config.insSpace s1.draws) = .fail) ∧
    ∃ s k, StrKeyValueIs s (.given 1) (.given k) (.given 40) 1 k 40 ∧ s.lookup 1 k = none ∧
      Config.strVal ≤ s.size 1 ∧ s.insAnswers.headD (Config.insSpace s.draws) = .ok :=
  ⟨by decide, full_structure Config.strVal (by rw [Config.strVal_eq]; omega)⟩

theorem witness_DeleteRemovesKey : StrKeyIs s1 (.given 3) (.given 5) 3 5 ∧ s1.present 3 = false ∧
    StrKeyIs s1 (.given 1) (.given 4) 1 4 ∧ s1.present 1 = true ∧ s1.lookup 1 4 = none ∧
    StrKeyIs s1 (.given 1) (.given 2) 1 2 ∧ s1.lookup 1 2 = some 20 := by decide

theorem witness_DeleteStructureRemovesIt : StrIs s1 (.given 6) 6 ∧ s1.present 6 = false ∧ StrIs s1 (.given 1) 1 ∧
    s1.present 1 = true := by decide

/-- The encodings, a missing structure, an empty one, and the least and greatest key. -/
theorem witness_MinAndMaxFollowTheirRules :
    field .firstFieldHigh 0 5 0x1f0100000000000000000000000000000000 = 0x03#5 ∧
    field .firstFieldHigh 0 5 0x270100000000000000000000000000000000 = 0x04#5 ∧
    s1.StructuresOk ∧ StrIs s1 (.given 3) 3 ∧ s1.present 3 = false ∧
    (sEmpty.StructuresOk ∧ StrIs sEmpty (.given 1) 1 ∧ sEmpty.present 1 = true ∧ ∀ k, sEmpty.lookup 1 k = none) ∧
    StrIs s1 (.given 1) 1 ∧ s1.lookup 1 2 = some 20 ∧ (∀ j x, s1.lookup 1 j = some x → (2 : Key).toNat ≤ j.toNat) ∧
    s1.lookup 1 9 = some 90 ∧ ∀ j x, s1.lookup 1 j = some x → j.toNat ≤ (9 : Key).toNat := by
  refine ⟨by decide, by decide, s1_ok, by decide, by decide, ⟨sEmpty_ok, by decide, by decide, fun k => rfl⟩, by decide,
    by decide, fun j x h => ?_, by decide, fun j x h => ?_⟩
  all_goals rcases s1_keys h with rfl | rfl | rfl <;> decide

/-- A missing structure, a missing base key, the greatest key, and a key with a successor. -/
theorem witness_NextFollowsItsRule :
    field .firstFieldHigh 0 5 0x870100000000000000020000000000000000 = 0x10#5 ∧ s1.StructuresOk ∧
    (StrKeyIs s1 (.given 3) (.given 5) 3 5 ∧ s1.present 3 = false) ∧
    (StrKeyIs s1 (.given 1) (.given 4) 1 4 ∧ s1.present 1 = true ∧ s1.lookup 1 4 = none) ∧
    (StrKeyIs s1 (.given 1) (.given 9) 1 9 ∧ s1.lookup 1 9 = some 90 ∧ NoneAbove s1 1 9) ∧
    StrKeyIs s1 (.given 1) (.given 5) 1 5 ∧ s1.lookup 1 5 = some 50 ∧ IsAbove s1 1 5 9 90 := by
  refine ⟨by decide, s1_ok, by decide, by decide, ⟨by decide, by decide, fun j x h => ?_⟩, by decide, by decide,
    by decide, by decide, fun j x h => ?_⟩
  all_goals rcases s1_keys h with rfl | rfl | rfl <;> decide

/-- A missing structure, a missing base key, the least key, and a key with a predecessor. -/
theorem witness_PreviousFollowsItsRule : s1.StructuresOk ∧
    (StrKeyIs s1 (.given 3) (.given 5) 3 5 ∧ s1.present 3 = false) ∧
    (StrKeyIs s1 (.given 1) (.given 4) 1 4 ∧ s1.present 1 = true ∧ s1.lookup 1 4 = none) ∧
    (StrKeyIs s1 (.given 1) (.given 2) 1 2 ∧ s1.lookup 1 2 = some 20 ∧ NoneBelow s1 1 2) ∧
    StrKeyIs s1 (.given 1) (.given 5) 1 5 ∧ s1.lookup 1 5 = some 50 ∧ IsBelow s1 1 5 2 20 := by
  refine ⟨s1_ok, by decide, by decide, ⟨by decide, by decide, fun j x h => ?_⟩, by decide, by decide,
    by decide, by decide, fun j x h => ?_⟩
  all_goals rcases s1_keys h with rfl | rfl | rfl <;> decide

/-- A missing structure, no neighbour at the corner keys, and a base key that is not held. -/
theorem witness_NearestKeysFollowTheirRules :
    field .firstFieldHigh 0 5 0x950100000000000000000000000000000000 = 0x12#5 ∧
    field .firstFieldHigh 0 5 0x9f8100000000000000060000000000000000 = 0x13#5 ∧ s1.StructuresOk ∧
    (StrKeyIs s1 (.given 4) (.given 1) 4 1 ∧ s1.present 4 = false) ∧
    (StrKeyIs s1 (.given 1) (.given 0) 1 0 ∧ s1.present 1 = true ∧ NoneBelow s1 1 0) ∧
    (StrKeyIs s1 (.given 1) (.given 0xFFFFFFFFFFFFFFFF) 1 0xFFFFFFFFFFFFFFFF ∧ NoneAbove s1 1 0xFFFFFFFFFFFFFFFF) ∧
    (StrKeyIs s1 (.given 1) (.given 7) 1 7 ∧ IsBelow s1 1 7 5 50 ∧ IsAbove s1 1 7 9 90) ∧
    StrKeyIs s1 (.given 1) (.given 5) 1 5 ∧ s1.lookup 1 5 = some 50 := by
  refine ⟨by decide, by decide, s1_ok, by decide, ⟨by decide, by decide, fun j x h => ?_⟩, ⟨by decide, fun j x h => ?_⟩,
    ⟨by decide, ⟨by decide, by decide, fun j x h => ?_⟩, by decide, by decide, fun j x h => ?_⟩, by decide, by decide⟩
  all_goals rcases s1_keys h with rfl | rfl | rfl <;> decide

/-- A missing structure, and the keys of structure 1. -/
theorem witness_CountReturnsCardinality : s1.StructuresOk ∧ StrIs s1 (.given 3) 3 ∧ s1.present 3 = false ∧
    StrIs s1 (.given 1) 1 ∧ s1.present 1 = true ∧ ([2, 5, 9] : List Key).Nodup ∧
    ∀ j : Key, j ∈ ([2, 5, 9] : List Key) ↔ (s1.lookup 1 j).isSome := by
  refine ⟨s1_ok, by decide, by decide, by decide, by decide, by decide, fun j => ⟨fun h => ?_, fun h => ?_⟩⟩
  · simp only [List.mem_cons, List.not_mem_nil, or_false] at h
    rcases h with rfl | rfl | rfl <;> decide
  · obtain ⟨x, hx⟩ := Option.isSome_iff_exists.mp h
    simpa using s1_keys hx

/-- S1 with SETOP_PAIRING = by_name. -/
theorem witness_AndBuildsResult : ∃ s : State, s.StructuresOk ∧ RABIs s (.given 3) (.given 1) (.given 2) 3 1 2 ∧
    s.present 3 = false ∧ s.present 1 = true ∧ s.present 2 = true ∧
    s.setopAnswers.headD (Config.setopSpace s.draws) = .ok ∧
    (s.andFn ((s.structure? 1).getD []) ((s.structure? 2).getD [])).length ≤ Config.strVal ∧
    s.params.pairing = .byName :=
  ⟨{ s1 with params := { prototypeParams with pairing := .byName } }, fun n m h => s1_ok n m h, by decide⟩

/-- Sources that have no key in common, with SETOP_PAIRING = as_written. -/
theorem witness_AndBuildsResult_asWritten : ∃ s : State, s.StructuresOk ∧
    RABIs s (.given 4) (.given 1) (.given 3) 4 1 3 ∧ s.present 4 = false ∧ s.present 1 = true ∧ s.present 3 = true ∧
    s.setopAnswers.headD (Config.setopSpace s.draws) = .ok ∧
    (s.andFn ((s.structure? 1).getD []) ((s.structure? 3).getD [])).length ≤ Config.strVal ∧
    s.params.pairing = .asWritten := by
  refine ⟨s1.setStructure 3 (some [(7, 77)]), s1_ok.setStructure 3 _ fun m h => ?_, by decide⟩
  obtain rfl := Option.some.inj h
  exact map_ok (by decide) (by decide) (by decide)

theorem witness_OrBuildsResult : s1.StructuresOk ∧ RABIs s1 (.given 3) (.given 1) (.given 2) 3 1 2 ∧
    s1.present 3 = false ∧ s1.present 1 = true ∧ s1.present 2 = true ∧
    s1.setopAnswers.headD (Config.setopSpace s1.draws) = .ok ∧
    (s1.orFn ((s1.structure? 1).getD []) ((s1.structure? 2).getD [])).length ≤ Config.strVal ∧
    s1.params.pairing = .asWritten := ⟨s1_ok, by decide⟩

/-- Sources that have no key in common, with SETOP_PAIRING = by_name. -/
theorem witness_OrBuildsResult_byName : ∃ s : State, s.StructuresOk ∧
    RABIs s (.given 4) (.given 1) (.given 3) 4 1 3 ∧ s.present 4 = false ∧ s.present 1 = true ∧ s.present 3 = true ∧
    s.setopAnswers.headD (Config.setopSpace s.draws) = .ok ∧
    (s.orFn ((s.structure? 1).getD []) ((s.structure? 3).getD [])).length ≤ Config.strVal ∧
    s.params.pairing = .byName := by
  refine ⟨{ s1.setStructure 3 (some [(7, 77)]) with params := { prototypeParams with pairing := .byName } },
    fun n m h => s1_ok.setStructure 3 (some [(7, 77)]) (fun m h => ?_) n m h, by decide⟩
  obtain rfl := Option.some.inj h
  exact map_ok (by decide) (by decide) (by decide)

theorem witness_NotBuildsDifference : s1.StructuresOk ∧ RABIs s1 (.given 3) (.given 1) (.given 2) 3 1 2 ∧
    s1.present 3 = false ∧ s1.present 1 = true ∧ s1.present 2 = true ∧
    s1.setopAnswers.headD (Config.setopSpace s1.draws) = .ok := ⟨s1_ok, by decide⟩

/-- R exists, and a source does not, for a set operation and for a slice. -/
theorem witness_BuildCommandsReportErrors : RABIs s1 (.given 1) (.given 1) (.given 2) 1 1 2 ∧ s1.present 1 = true ∧
    RABIs s1 (.given 3) (.given 4) (.given 1) 3 4 1 ∧ RABIs s1 (.given 3) (.given 1) (.given 4) 3 1 4 ∧
    s1.present 4 = false ∧ RAKIs s1 (.given 2) (.given 1) (.given 5) 2 1 5 ∧ s1.present 2 = true ∧
    RAKIs s1 (.given 3) (.given 4) (.given 5) 3 4 5 := by decide

theorem witness_SlicesCopySelectedPairs : s1.StructuresOk ∧
    RAKIs s1 (.given 3) (.given 1) (.given 5) 3 1 5 ∧
    RAKIs s1 (.given 3) (.given 1) (.given 0xFFFFFFFFFFFFFFFF) 3 1 0xFFFFFFFFFFFFFFFF ∧
    s1.present 3 = false ∧ s1.present 1 = true ∧ s1.setopAnswers.headD (Config.setopSpace s1.draws) = .ok :=
  ⟨s1_ok, by decide⟩

theorem keys_sorted (n : Nat) (h : n < 2 ^ 64) : (keys n).Sorted := by
  unfold PairMap.Sorted keys
  rw [List.pairwise_map]
  refine List.pairwise_lt_range.imp_of_mem fun {a b} ha hb hab => ?_
  have := List.mem_range.mp ha
  have := List.mem_range.mp hb
  simp only
  bv_omega

theorem keys_held (n i : Nat) (hi : i < n) (h : n < 2 ^ 64) : (keys n).get (BitVec.ofNat 64 i) = some 0 :=
  (PairMap.get_eq_some_iff (keys_sorted n h) _ _).mpr (List.mem_map.mpr ⟨i, List.mem_range.mpr hi, rfl⟩)

/-- Structure 1 full, structure 2 with a key it does not hold: the union has a key too many. -/
theorem union_too_large (n : Nat) (hn : n = Config.strVal) :
    ∃ s : State, s.StructuresOk ∧ SetOp.and.unites s.params.pairing = true ∧
      RABIs s (.given 3) (.given 1) (.given 2) 3 1 2 ∧ s.present 2 = true ∧ s.present 3 = false ∧
      s.present 1 = true ∧ s.setopAnswers.headD (Config.setopSpace s.draws) = .ok ∧
      ∃ ks : List Key, ks.Nodup ∧ n < ks.length ∧ ∀ j ∈ ks, (s.lookup 1 j).isSome ∨ (s.lookup 2 j).isSome := by
  have hlt : n < 2 ^ 64 - 1 := by rw [hn, Config.strVal_eq]; omega
  refine ⟨{ machine (some (keys n)) (some [(0xFFFFFFFFFFFFFFFF, 0)]) with setopAnswers := [.ok] }, ?_, rfl,
    ⟨⟨rfl, rfl, by decide⟩, ⟨rfl, by decide⟩, rfl, by decide⟩, rfl, rfl, rfl, rfl,
    0xFFFFFFFFFFFFFFFF :: (List.range n).map (BitVec.ofNat 64), ?_, by simp, ?_⟩
  · have e : ∀ k : StrNo, State.structure? { machine (some (keys n)) (some [(0xFFFFFFFFFFFFFFFF, 0)]) with
        setopAnswers := [.ok] } k =
        if k = 1 then some (keys n) else if k = 2 then some [(0xFFFFFFFFFFFFFFFF, 0)] else none := by
      intro k
      have hk : k = 0 ∨ k = 1 ∨ k = 2 ∨ k = 3 ∨ k = 4 ∨ k = 5 ∨ k = 6 ∨ k = 7 := by revert k; decide
      rcases hk with rfl | rfl | rfl | rfl | rfl | rfl | rfl | rfl <;> rfl
    intro k m hm
    rw [e] at hm
    split at hm
    · obtain rfl := Option.some.inj hm
      refine ⟨keys_sorted n (by omega), by rw [keys_length, hn], fun h0 => ?_⟩
      have := congrArg List.length h0
      rw [keys_length, hn, Config.strVal_eq] at this
      simp at this
    · split at hm
      · obtain rfl := Option.some.inj hm
        exact ⟨by decide, by rw [Config.strVal_eq]; decide, fun h0 => by simp at h0⟩
      · simp at hm
  · refine List.nodup_cons.mpr ⟨fun hc => ?_, (List.nodup_map_iff_inj_on List.nodup_range).mpr fun a ha b hb hab => ?_⟩
    · obtain ⟨i, hi, he⟩ := List.mem_map.mp hc
      have := List.mem_range.mp hi
      bv_omega
    · have := List.mem_range.mp ha
      have := List.mem_range.mp hb
      bv_omega
  · intro j hj
    rcases List.mem_cons.mp hj with rfl | hj
    · exact .inr rfl
    · obtain ⟨i, hi, rfl⟩ := List.mem_map.mp hj
      refine .inl ?_
      have : State.lookup { machine (some (keys n)) (some [(0xFFFFFFFFFFFFFFFF, 0)]) with setopAnswers := [.ok] } 1
          (BitVec.ofNat 64 i) = (keys n).get (BitVec.ofNat 64 i) := rfl
      rw [this, keys_held n i (List.mem_range.mp hi) (by omega)]
      rfl

/-- A union of more than STR_VAL keys, with an oracle that answers `ok`. -/
theorem witness_NoSpaceRedrawsOnlyResult_union :
    ∃ s : State, s.StructuresOk ∧ SetOp.and.unites s.params.pairing = true ∧
      RABIs s (.given 3) (.given 1) (.given 2) 3 1 2 ∧ s.present 2 = true ∧ s.present 3 = false ∧
      s.present 1 = true ∧ s.setopAnswers.headD (Config.setopSpace s.draws) = .ok ∧
      ∃ ks : List Key, ks.Nodup ∧ Config.strVal < ks.length ∧
        ∀ j ∈ ks, (s.lookup 1 j).isSome ∨ (s.lookup 2 j).isSome := union_too_large Config.strVal rfl

/-- A set operation and a slice. -/
theorem witness_NoSpaceRedrawsOnlyResult : ({ s1 with setopAnswers := [.fail] } : State).StructuresOk ∧
    RABIs s1 (.given 3) (.given 1) (.given 2) 3 1 2 ∧ RAKIs s1 (.given 3) (.given 1) (.given 5) 3 1 5 ∧
    s1.present 3 = false ∧ s1.present 1 = true ∧ s1.present 2 = true ∧
    SetOp.instr .not false (.given 3) (.given 1) (.given 2) = .not false (.given 3) (.given 1) (.given 2) ∧
    Slice.instr .ls false (.given 3) (.given 1) (.given 5) = .ls false (.given 3) (.given 1) (.given 5) ∧
    ({ s1 with setopAnswers := [.fail] } : State).setopAnswers.headD (Config.setopSpace s1.draws) = .fail :=
  ⟨s1_ok.congr (fun _ => rfl) rfl, by decide⟩

theorem witness_SqueezeReportsExistence : StrIs s1 (.given 3) 3 ∧ s1.present 3 = false ∧ StrIs s1 (.given 1) 1 ∧
    s1.present 1 = true := by decide

/-- An address by a field and by a datum, and data 1, 0 and another. -/
theorem witness_JumpFollowsItsTag : (misd s1).issuer = .misd ∧ (misd s1).params.ddrBist = true ∧
    resolve (addrOfDatum (misd s1).params) (.given 2) (misd s1).wait.t1 = some 2 ∧
    resolve (addrOfDatum prototypeParams) .awaited (.received 7) = some 7 ∧
    (⟨.received 1, .idle, .idle⟩ : TagWait).t0 = .received 1 ∧ (⟨.received 0, .idle, .idle⟩ : TagWait).t0 = .received 0 ∧
    (⟨.received 2, .idle, .idle⟩ : TagWait).t0 = .received 2 := by decide

/-- 0xA0000000 holds OPC_JT, 0x14, in its top five bits. -/
theorem witness_CpuJumpIsDiscarded : s1.issuer = .coprocessor ∧ s1.params.wf ∧
    (cmdFields s1.params.cmdLayout 0xA0000000).opc = s1.params.opcJt := by decide

/-- Room, a full C2S, and an unassigned opcode, 0x15. -/
theorem witness_CmdWriteQueuesCommand : s1.control0.getLsbD 1 = false ∧
    assignedOpcode (cmdFields s1.params.cmdLayout 0x10010000).opc = true ∧ s1.c2s.length < s1.params.c2sDepth ∧
    ({ s1 with params := { prototypeParams with c2sDepth := 1 }, c2s := [⟨1, false, 1, 0, 0, 0, 0⟩] } :
      State).params.c2sDepth ≤ [(⟨1, false, 1, 0, 0, 0, 0⟩ : CommandEntry)].length ∧
    assignedOpcode (cmdFields s1.params.cmdLayout 0xA8000000).opc = false ∧
    (cmdFields s1.params.cmdLayout 0xA8000000).opc ≠ s1.params.opcJt := by decide

theorem witness_EntryStopKeepsCommandsOut : ({ s1 with control0 := 2 } : State).control0.getLsbD 1 = true ∧
    assignedOpcode (cmdFields s1.params.cmdLayout 0x10010000).opc = true ∧
    ∃ t, State.hostAccess (.write 0x40 4 0x10010000) { s1 with control0 := 2 } = .next t :=
  ⟨by decide, by decide, _, rfl⟩

/-- Waiting for operand 1 and not for operand 0. -/
theorem witness_TagWriteDeliversDatum : waiting.wait.t1 = .awaited ∧ waiting.wait.t0 ≠ .awaited := by decide

theorem witness_MisdRunsOnlyWhenEnabled : s1.control0.getLsbD 0 = false ∧ running.wait.blocked = false ∧
    running.control0.getLsbD 0 = true := by decide

/-- Both DMA bits, a plain write, the mode stopped after the datum came, and while it is awaited, with and without the
write that abandons the wait. -/
theorem witness_Control0WriteReplacesValue : (0xC : Reg).getLsbD 2 = true ∧ (0xC : Reg).getLsbD 3 = true ∧
    (0x4 : Reg).getLsbD 3 = false ∧ s1.wait.blocked = false ∧ answered.wait.blocked = false ∧
    (0 : Reg).getLsbD 2 = false ∧ (0 : Reg).getLsbD 0 = false ∧ waiting.wait.blocked = true ∧
    ({ waiting with pci2sys := [.write 0x48 4 0x40] } : State).pci2sys = .write 0x48 4 0x40 :: [] ∧
    (0x40 : Reg).getLsbD 6 = true ∧ ({ waiting with pci2sys := [.write 0x48 4 0x20] } : State).pci2sys =
      .write 0x48 4 0x20 :: [] ∧ (0x20 : Reg).getLsbD 6 = false ∧ (0x20 : Reg).getLsbD 0 = false ∧
    ({ waiting with pci2sys := [] } : State).pci2sys = [] := by
  decide

theorem witness_Control1ClearsTscAndFlags : (∃ t, State.hostAccess (.write 0x48 4 0x188) waiting = .next t) ∧
    (0x188 : Reg).getLsbD 3 = true ∧ (0x188 : Reg).getLsbD 7 = true ∧ (0x188 : Reg).getLsbD 8 = true :=
  ⟨⟨_, rfl⟩, by decide⟩

/-- Two entries in S2C, bit 4 beside bit 3, and an empty queue. -/
theorem witness_Control1ShiftsResultQueue :
    ({ s1 with s2c := [⟨true, .ok, 0, 2, 20⟩, ⟨false, .eNoKey, 0, 9, 90⟩] } : State).s2c =
      [⟨true, .ok, 0, 2, 20⟩, ⟨false, .eNoKey, 0, 9, 90⟩] ∧ s1.params.wf ∧ (0x18 : Reg).getLsbD 4 = true ∧
    (0x18 : Reg).getLsbD 0 = false ∧ (0x18 : Reg).getLsbD 2 = false ∧ s1.s2c = [] := by decide

/-- Local-memory access off, LCM enabled, LSM enabled. -/
theorem witness_OperandRegisterWritesStore : s1.control0.getLsbD 2 = false ∧ s1.control0.getLsbD 3 = false ∧
    ({ s1 with control0 := 4 } : State).control0.getLsbD 2 = true ∧
    ({ s1 with control0 := 8 } : State).control0.getLsbD 3 = true := by decide

/-- The first and the last offset, a result in S2C, and a datum in the local-memory queue. -/
theorem witness_WindowReadsReturnRegisters : s1.params.wf ∧ 0 % 4 = 0 ∧ 252 % 4 = 0 ∧ 252 < 256 ∧
    ({ s1 with s2c := [⟨true, .ok, 0, 2, 20⟩], dmaRead := [5] } : State).s2c = ⟨true, .ok, 0, 2, 20⟩ :: [] ∧
    ({ s1 with s2c := [⟨true, .ok, 0, 2, 20⟩], dmaRead := [5] } : State).dmaRead = 5 :: [] ∧
    ({ s1 with control0 := 8, dmaRead := [5] } : State).control0.getLsbD 3 = true :=
  ⟨by decide, rfl, rfl, by decide, rfl, rfl, by decide⟩

theorem witness_State0ShowsQueues : s1.params.wf ∧ s1.QueuesOk ∧ s1.s2c = [] ∧
    ({ s1 with s2c := [⟨true, .ok, 0, 2, 20⟩] } : State).QueuesOk ∧
    ({ s1 with s2c := [⟨true, .ok, 0, 2, 20⟩] } : State).s2c = ⟨true, .ok, 0, 2, 20⟩ :: [] := by
  unfold State.QueuesOk; decide

theorem witness_StatusBitsFollowState : s1.params.wf ∧ s1.QueuesOk := by
  unfold State.QueuesOk; decide

/-- A size of 2, an unaligned offset, the first offset past the window, and an offset without a write side. -/
theorem witness_BadAccessesAreRefused : 2 ≠ 4 ∧ 0x41 % 4 ≠ 0 ∧ 256 ≤ 256 ∧ 0xBC % 4 = 0 ∧ 0xBC < 0xC0 ∧
    0xBC ∉ [0x00, 0x04, 0x20, 0x24, 0x40, 0x44, 0x48, 0x50, 0x54, 0x58, 0x5C, 0x60, 0x80, 0x84, 0x88] := by decide

/-- The mode on, the stream waiting, nothing fetched, and a command fetched whose datum has come with the mode off. -/
theorem witness_LcmLoadIsSeenByFetch : running.misdEnabled = true ∧ waiting.wait.blocked = true ∧
    s1.misdEnabled = false ∧ s1.wait.blocked = false ∧ s1.fetched = none ∧
    ({ answered with control0 := 0 } : State).misdEnabled = false ∧
    answered.wait.blocked = false ∧ answered.fetched = some 0x2d0100000000000000000000000000000000 ∧
    decode answered.params 0x2d0100000000000000000000000000000000 = .ok (.srch false (.given 1) .awaited) ∧
    65535 < s1.params.lcmSlots ∧ ({ s1 with ip := 65535 } : State).ip = 65535 ∧
    decode s1.params 0x1f0100000000000000000000000000000000 = .ok (.min false (.given 1)) := by decide

/-- IP is written by a jump of the MISD stream, and by CONTROL1 bit 6. -/
theorem witness_OnlyJumpsAndFetchMoveIp :
    (∃ t, step { running with lcm := [(0, 0xa70000800000000000000000000000000000)] } = .next t ∧ t.ip = 1) ∧
    ∃ t, step { s1 with ip := 3, pci2sys := [.write 0x48 4 0x40] } = .next t ∧ t.ip = 0 ∧
      HostWrites { s1 with ip := 3, pci2sys := [.write 0x48 4 0x40] } 0x48 0x40 :=
  ⟨⟨_, rfl, rfl⟩, _, rfl, rfl, by decide⟩

/-- A CONTROL0 write and a load of LCM. -/
theorem witness_OnlyHostWritesControl0AndLcm :
    (∃ t, step { s1 with pci2sys := [.write 0x44 4 1] } = .next t ∧ t.control0 = 1) ∧
    ∃ t, step { s1 with pci2sys := [.loadLcm 65535 7] } = .next t ∧ t.lcm = [(65535, 7)] :=
  ⟨⟨_, rfl, rfl⟩, _, rfl, rfl⟩

/-- The three flags set, and a CONTROL1 write that clears them. -/
theorem witness_FlagsStayUntilCleared :
    ∃ t, step { s1 with drFlag := true, ovfFlag := true, owr := true, pci2sys := [.write 0x48 4 0x184] } = .next t ∧
      t.drFlag = false ∧ t.ovfFlag = false ∧ t.owr = false := ⟨_, rfl, rfl, rfl, rfl⟩

/-- TSC enabled, and disabled. -/
theorem witness_TscGrowsOnlyWhileEnabled : (∃ t, step { s1 with control0 := 0x10 } = .next t) ∧
    (0x10 : Reg).getLsbD 4 = true ∧ (∃ t, step s1 = .next t) ∧ s1.control0.getLsbD 4 = false :=
  ⟨⟨_, rfl⟩, by decide, ⟨_, rfl⟩, by decide⟩

end Sys2Proof.Tests
end

/-! Writes to CONTROL1, and what KEYQ, VALUEQ and STATE0 show (spec/10_state.md R50 to R66): the rules of these
accesses first, then the statements that rest on them. -/

namespace Sys2Proof.Machine

/-! ### Writes to CONTROL1 -/

/-- A CONTROL1 write takes effect when it shifts nothing, or bit 0 covers the shift, or S2C has an entry (R50). -/
theorem State.hostAccess_writeControl1 {s : State} {v : Reg}
    (h : v.getLsbD 4 = true → v.getLsbD 0 = true ∨ s.s2c ≠ []) :
    s.hostAccess (.write 0x48 4 v) = .next (s.control1Actions v) := by
  change s.writeControl1 v = _
  refine if_neg fun hc => ?_
  simp only [Bool.and_eq_true, Bool.not_eq_true', List.isEmpty_iff] at hc
  obtain ⟨⟨h4, h0⟩, hs⟩ := hc
  rcases h h4 with h0' | hs'
  · exact absurd h0' (Bool.eq_false_iff.mp h0)
  · exact hs' hs

/-- The shift of an empty S2C is refused (U12). -/
theorem State.hostAccess_writeControl1_refused {s : State} {v : Reg} (h4 : v.getLsbD 4 = true)
    (h0 : v.getLsbD 0 = false) (hs : s.s2c = []) :
    s.hostAccess (.write 0x48 4 v) = .refused .popOfEmptyResultQueue := by
  change s.writeControl1 v = _
  exact if_pos (by rw [h4, h0, hs]; rfl)

/-- A CONTROL1 write that gives a next state gives the one of its actions (R50). -/
theorem State.hostAccess_writeControl1_next {s t : State} {v : Reg}
    (h : s.hostAccess (.write 0x48 4 v) = .next t) : t = s.control1Actions v := by
  by_cases hc : v.getLsbD 4 = true → v.getLsbD 0 = true ∨ s.s2c ≠ []
  · rw [State.hostAccess_writeControl1 hc] at h
    exact (Host.Outcome.next.inj h).symm
  · simp only [Classical.not_imp, not_or, Bool.not_eq_true, not_not] at hc
    obtain ⟨h4, h0, hs⟩ := hc
    rw [State.hostAccess_writeControl1_refused h4 h0 hs] at h
    cases h

/-- What bits 3, 7 and 8 clear, whatever the other bits (R54, R58, R59). -/
theorem State.control1Actions_clears (s : State) (v : Reg) :
    (v.getLsbD 3 = true → (s.control1Actions v).tsc = 0) ∧
    (v.getLsbD 7 = true → (s.control1Actions v).drFlag = false) ∧
    (v.getLsbD 8 = true → (s.control1Actions v).ovfFlag = false) := by
  rw [State.control1Actions_eq]
  exact ⟨fun h => if_pos h, fun h => if_pos h, fun h => if_pos h⟩

/-- What bit 4 leaves of S2C beside bits other than 0 and 2 (R55). -/
theorem State.control1Actions_s2c_of_shift (s : State) {v : Reg} (h4 : v.getLsbD 4 = true)
    (h0 : v.getLsbD 0 = false) (h2 : v.getLsbD 2 = false) : (s.control1Actions v).s2c = s.s2c.tail := by
  rw [State.control1Actions_eq]
  simp only [doWhen, h4, h0, h2, if_true, Bool.false_eq_true, if_false]

/-- Settles O48: without bit 4 no CONTROL1 write is refused; bits 3, 7 and 8 written alone are one action each, and
beside others what they clear is read off the actions. -/
theorem control1ClearsTscAndFlags : Obligations.Control1ClearsTscAndFlags := by
  intro s
  refine ⟨?_, ?_, ?_, fun v t h => ?_⟩
  · exact State.hostAccess_writeControl1 (v := 0x008) (by simp)
  · exact State.hostAccess_writeControl1 (v := 0x080) (by simp)
  · exact State.hostAccess_writeControl1 (v := 0x100) (by simp)
  · obtain rfl := State.hostAccess_writeControl1_next h
    exact s.control1Actions_clears v

/-! ### Reads of the window -/

/-- STATE1 hides no register but at the three offsets left open for it (D27). -/
theorem Params.ne_state1Offset_of_wf {p : Params} (hwf : p.wf) {addr : Nat} (h : addr ∉ [0x94, 0x98, 0x9C]) :
    addr ≠ p.state1Offset := by
  obtain ⟨-, -, -, -, -, -, -, -, -, hoff⟩ := hwf
  rintro rfl
  rcases hoff with hoff | hoff | hoff <;> simp [hoff] at h

/-- STATE0 is read at its offset (R38). -/
theorem State.readWindow_state0 {s : State} (hwf : s.params.wf) (any : Reg) :
    s.readWindow 0x90 any = s.state0 any :=
  if_neg (Params.ne_state1Offset_of_wf hwf (by decide))

/-- The halves of KEYQ and of VALUEQ make the key and the value of the oldest S2C entry (R38, R87). -/
theorem State.readWindow_resultQueue {s : State} (hwf : s.params.wf) (any : Reg) {e : ResultEntry}
    {rest : List ResultEntry} (hs : s.s2c = e :: rest) :
    s.readWindow 0x44 any ++ s.readWindow 0x40 any = e.key ∧
    s.readWindow 0x64 any ++ s.readWindow 0x60 any = e.value := by
  simp [State.readWindow, Params.ne_state1Offset_of_wf hwf, hs, highHalf_append_lowHalf]

/-- What a read of STATE0 shows in bits 0 to 7 (R60 to R67). -/
theorem State.readWindow_state0_getLsbD {s : State} (hwf : s.params.wf) (any : Reg) {i : Nat} (h : i < 8) :
    (s.readWindow 0x90 any).getLsbD i =
      [s.ready, s.error, s.errorQ.getD (any.getLsbD 2), s.owr, s.params.ddrBist, s.c2sFull,
        any.getLsbD 6, any.getLsbD 7][i]! := by
  rw [State.readWindow_state0 hwf]
  exact withLowByte_getLsbD _ _ _ _ _ _ _ _ _ i h

/-- ERRORQ is NOT V of the oldest S2C entry (R63). -/
theorem State.errorQ_of_s2c_cons {s : State} {e : ResultEntry} {rest : List ResultEntry} (hs : s.s2c = e :: rest) :
    s.errorQ = some !e.v := by
  simp [State.errorQ, hs]

/-- ERRORQ has no value of its own on an empty S2C (R63). -/
theorem State.errorQ_of_s2c_nil {s : State} (hs : s.s2c = []) : s.errorQ = none := by
  simp [State.errorQ, hs]

/-- C2S is full exactly when it holds as many entries as its depth, which bounds them (R32, R66). -/
theorem State.c2sFull_iff {s : State} (hq : s.QueuesOk) : s.c2sFull = true ↔ s.c2s.length = s.params.c2sDepth := by
  obtain ⟨hle, -, -⟩ := hq
  simp only [State.c2sFull, decide_eq_true_eq]
  omega

/-- Bit 2 of STATE0 with an entry in S2C (R63). -/
theorem State.readWindow_state0_errorQ {s : State} (hwf : s.params.wf) (any : Reg) {e : ResultEntry}
    {rest : List ResultEntry} (hs : s.s2c = e :: rest) : (s.readWindow 0x90 any).getLsbD 2 = !e.v := by
  rw [State.readWindow_state0_getLsbD hwf any (by decide), State.errorQ_of_s2c_cons hs]
  rfl

/-- Settles O53, bit by bit of the low byte of STATE0. -/
theorem state0ShowsQueues : Obligations.State0ShowsQueues := by
  intro s any hwf hq
  refine ⟨fun e rest hs => State.readWindow_state0_errorQ hwf any hs, fun hs => ?_, ?_, ?_⟩
  · rw [State.readWindow_state0_getLsbD hwf any (by decide), State.errorQ_of_s2c_nil hs]
    rfl
  · rw [State.readWindow_state0_getLsbD hwf any (by decide)]
    rfl
  · rw [State.readWindow_state0_getLsbD hwf any (by decide)]
    exact State.c2sFull_iff hq

/-! ### The shift of the result queue -/

/-- Settles O49: with an entry in S2C the shift is not refused and leaves the tail, whose head the window then shows. -/
theorem control1ShiftsResultQueue : Obligations.Control1ShiftsResultQueue := by
  intro s
  refine ⟨fun e rest hs => ?_, fun v e rest h4 h0 h2 hs => ?_, fun hs => ?_⟩
  · have htail : s.control1Actions 0x010 = { s with s2c := rest } := by
      change { s with s2c := s.s2c.tail } = _
      rw [hs, List.tail_cons]
    refine ⟨_, State.hostAccess_writeControl1 (by simp [hs]), htail, fun hwf e' rest' any hr => ?_⟩
    rw [htail]
    obtain ⟨hkey, hvalue⟩ := State.readWindow_resultQueue (s := { s with s2c := rest }) hwf any hr
    exact ⟨hkey, hvalue, State.readWindow_state0_errorQ (s := { s with s2c := rest }) hwf any hr⟩
  · refine ⟨_, State.hostAccess_writeControl1 (by simp [hs]), ?_⟩
    rw [State.control1Actions_s2c_of_shift s h4 h0 h2, hs, List.tail_cons]
  · exact State.hostAccess_writeControl1_refused (by decide) (by decide) hs

end Sys2Proof.Machine

/-! MIN, MAX and the neighbour commands (spec/41_minmax_neighbours_power.md R170 to R178): the ends of a canonical map,
the rule of each shared operation, then the statements that rest on them. -/

namespace Sys2Proof

/-! ### Encodings (R116) -/

theorem decode_min {p : Params} {slot : Slot} (h : field p.bitOrder 0 5 slot = 0x03#5) :
    decode p slot = .ok (.min (bitAt p.bitOrder 8 slot) (operand0 p.bitOrder slot)) := by
  simp only [decode, h]; rfl

theorem decode_max {p : Params} {slot : Slot} (h : field p.bitOrder 0 5 slot = 0x04#5) :
    decode p slot = .ok (.max (bitAt p.bitOrder 8 slot) (operand0 p.bitOrder slot)) := by
  simp only [decode, h]; rfl

theorem decode_next {p : Params} {slot : Slot} (h : field p.bitOrder 0 5 slot = 0x10#5) :
    decode p slot =
      .ok (.next (bitAt p.bitOrder 8 slot) (operand0 p.bitOrder slot) (operandKey p.bitOrder slot)) := by
  simp only [decode, h]; rfl

theorem decode_nsm {p : Params} {slot : Slot} (h : field p.bitOrder 0 5 slot = 0x12#5) :
    decode p slot =
      .ok (.nsm (bitAt p.bitOrder 8 slot) (operand0 p.bitOrder slot) (operandKey p.bitOrder slot)) := by
  simp only [decode, h]; rfl

theorem decode_ngr {p : Params} {slot : Slot} (h : field p.bitOrder 0 5 slot = 0x13#5) :
    decode p slot =
      .ok (.ngr (bitAt p.bitOrder 8 slot) (operand0 p.bitOrder slot) (operandKey p.bitOrder slot)) := by
  simp only [decode, h]; rfl

/-! ### The ends of a map (R12) -/

/-- A map that holds no key lists no pair. -/
theorem PairMap.eq_nil_of_get_eq_none {m : PairMap} (h : ∀ k, m.get k = none) : m = [] := by
  cases m with
  | nil => rfl
  | cons p m => simpa [PairMap.get_cons] using h p.1

/-- In a canonical map a key stands in one pair. -/
theorem PairMap.Sorted.eq_of_fst_eq {m : PairMap} (hm : m.Sorted) {p r : Key × Value} (hp : p ∈ m) (hr : r ∈ m)
    (h : p.1 = r.1) : p = r := by
  have hpv := (PairMap.get_eq_some_iff hm p.1 p.2).mpr hp
  have hrv := (PairMap.get_eq_some_iff hm r.1 r.2).mpr hr
  rw [h, hrv] at hpv
  exact Prod.ext h (Option.some.inj hpv).symm

/-- The pair whose key is below every other is the least one. -/
theorem PairMap.Sorted.least_eq {m : PairMap} (hm : m.Sorted) {p : Key × Value} (hp : p ∈ m)
    (h : ∀ r ∈ m, p.1 ≤ r.1) : m.least = some p := by
  cases hl : m.least with
  | none =>
    rw [List.head?_eq_none_iff.mp hl] at hp
    cases hp
  | some r =>
    obtain ⟨hr, hmin⟩ := PairMap.least_spec hm hl
    rw [hm.eq_of_fst_eq hr hp (BitVec.le_antisymm (hmin p hp) (h r hr))]

/-- The pair whose key is above every other is the greatest one. -/
theorem PairMap.Sorted.greatest_eq {m : PairMap} (hm : m.Sorted) {p : Key × Value} (hp : p ∈ m)
    (h : ∀ r ∈ m, r.1 ≤ p.1) : m.greatest = some p := by
  cases hg : m.greatest with
  | none =>
    rw [List.getLast?_eq_none_iff.mp hg] at hp
    cases hp
  | some r =>
    obtain ⟨hr, hmax⟩ := PairMap.greatest_spec hm hg
    rw [hm.eq_of_fst_eq hr hp (BitVec.le_antisymm (h r hr) (hmax p hp))]

end Sys2Proof

namespace Sys2Proof.Machine

/-! ### Structures and their ends -/

/-- A structure that holds no key has the empty map. -/
theorem State.structure?_eq_nil {s : State} {n : StrNo} (hp : s.present n = true)
    (h : ∀ k, s.lookup n k = none) : s.structure? n = some [] := by
  obtain ⟨m, hm⟩ := State.present_eq_true_iff.mp hp
  rw [hm, PairMap.eq_nil_of_get_eq_none (m := m) fun k => by simpa [State.lookup, hm] using h k]

/-- The model finds the least key of a structure as its numbers give it (R170, D8). -/
theorem State.StructuresOk.least_eq {s : State} {n : StrNo} {m : PairMap} {k : Key} {v : Value} (hok : s.StructuresOk)
    (hm : s.structure? n = some m) (hk : s.lookup n k = some v)
    (h : ∀ j x, s.lookup n j = some x → k.toNat ≤ j.toNat) : m.least = some (k, v) :=
  PairMap.Sorted.least_eq (hok n m hm).1 ((hok.lookup_iff hm k v).mp hk) fun r hr =>
    BitVec.le_def.mpr (h r.1 r.2 ((hok.lookup_iff hm r.1 r.2).mpr hr))

/-- The model finds the greatest key of a structure as its numbers give it (R171, D8). -/
theorem State.StructuresOk.greatest_eq {s : State} {n : StrNo} {m : PairMap} {k : Key} {v : Value}
    (hok : s.StructuresOk) (hm : s.structure? n = some m) (hk : s.lookup n k = some v)
    (h : ∀ j x, s.lookup n j = some x → j.toNat ≤ k.toNat) : m.greatest = some (k, v) :=
  PairMap.Sorted.greatest_eq (hok n m hm).1 ((hok.lookup_iff hm k v).mp hk) fun r hr =>
    BitVec.le_def.mpr (h r.1 r.2 ((hok.lookup_iff hm r.1 r.2).mpr hr))

/-! ### MIN and MAX after operand resolution -/

theorem exec_min_eq {s : State} {str : Operand StrNo} {n : StrNo} (h : StrIs s str n) (q : Bool) :
    exec (.min q str) s = s.endWait.extremum PairMap.least q n :=
  withStr_eq h fun n s => s.extremum PairMap.least q n

theorem exec_max_eq {s : State} {str : Operand StrNo} {n : StrNo} (h : StrIs s str n) (q : Bool) :
    exec (.max q str) s = s.endWait.extremum PairMap.greatest q n :=
  withStr_eq h fun n s => s.extremum PairMap.greatest q n

section Extremum

variable {s : State} {n : StrNo} (pick : PairMap → Option (Key × Value)) (q : Bool)

/-- A missing structure has no extreme key: E_NO_STRUCT. -/
theorem State.extremum_of_missing (h : s.present n = false) :
    ∃ t, s.endWait.extremum pick q n = .next t ∧ QueryFrame s t ∧ Failed q .eNoStruct s t := by
  refine ⟨_, ?_, QueryFrame.of_raiseError s q .eNoStruct, Failed.of_raiseError s q .eNoStruct⟩
  simp only [State.extremum, State.structure?_endWait, State.present_eq_false_iff.mp h]
  rfl

/-- A structure without the key asked for is refused (U6). -/
theorem State.extremum_of_pick_eq_none {m : PairMap} (hm : s.structure? n = some m) (h : pick m = none) :
    s.endWait.extremum pick q n = .refused .emptyStructure := by
  simp only [State.extremum, State.structure?_endWait, hm, h]

/-- The pair found is delivered. -/
theorem State.extremum_of_pick_eq_some {m : PairMap} {k : Key} {v : Value} (hm : s.structure? n = some m)
    (h : pick m = some (k, v)) :
    ∃ t, s.endWait.extremum pick q n = .next t ∧ QueryFrame s t ∧ Delivered q true .ok k v s t := by
  refine ⟨_, ?_, QueryFrame.of_deliver s q true .ok (some k) (some v),
    Delivered.of_query s q true .ok (some k) (some v)⟩
  simp only [State.extremum, State.structure?_endWait, hm, h]
  rfl

end Extremum

/-- Settles O29: the ends of the canonical map are the least and the greatest key, and only the empty map has none. -/
theorem minAndMaxFollowTheirRules : Obligations.MinAndMaxFollowTheirRules := by
  refine ⟨fun p slot h => decode_min h, fun p slot h => decode_max h, fun s q str n hok hs => ?_⟩
  rw [exec_min_eq hs, exec_max_eq hs]
  refine ⟨fun hp => ?_, fun hp hnone => ?_, fun k v hk hmin => ?_, fun k v hk hmax => ?_⟩
  · exact ⟨State.extremum_of_missing _ q hp, State.extremum_of_missing _ q hp⟩
  · have hm := State.structure?_eq_nil hp hnone
    exact ⟨State.extremum_of_pick_eq_none _ q hm rfl, State.extremum_of_pick_eq_none _ q hm rfl⟩
  · obtain ⟨m, hm, -⟩ := State.structure_of_lookup hk
    exact State.extremum_of_pick_eq_some _ q hm (hok.least_eq hm hk hmin)
  · obtain ⟨m, hm, -⟩ := State.structure_of_lookup hk
    exact State.extremum_of_pick_eq_some _ q hm (hok.greatest_eq hm hk hmax)

/-! ### The neighbour commands after operand resolution -/

section Execution

variable {s : State} {str : Operand StrNo} {key : Operand Key} {n : StrNo} {k : Key}

theorem exec_next_eq (h : StrKeyIs s str key n k) (q : Bool) :
    exec (.next q str key) s = .next (s.endWait.neighbourOfKey PairMap.above q n k).advance :=
  withStrKey_eq h fun n k s => (s.neighbourOfKey PairMap.above q n k).finish

theorem exec_prev_eq (h : StrKeyIs s str key n k) (q : Bool) :
    exec (.prev q str key) s = .next (s.endWait.neighbourOfKey PairMap.below q n k).advance :=
  withStrKey_eq h fun n k s => (s.neighbourOfKey PairMap.below q n k).finish

theorem exec_nsm_eq (h : StrKeyIs s str key n k) (q : Bool) :
    exec (.nsm q str key) s = .next (s.endWait.neighbour PairMap.below q n k).advance :=
  withStrKey_eq h fun n k s => (s.neighbour PairMap.below q n k).finish

theorem exec_ngr_eq (h : StrKeyIs s str key n k) (q : Bool) :
    exec (.ngr q str key) s = .next (s.endWait.neighbour PairMap.above q n k).advance :=
  withStrKey_eq h fun n k s => (s.neighbour PairMap.above q n k).finish

end Execution

section Neighbour

variable (pick : PairMap → Key → Option (Key × Value)) (q : Bool) {s : State} {n : StrNo} {k : Key}

theorem State.neighbour_of_missing (h : s.present n = false) :
    s.endWait.neighbour pick q n k = s.endWait.raiseError q .eNoStruct := by
  simp only [State.neighbour, State.structure?_endWait, State.present_eq_false_iff.mp h]

theorem State.neighbour_of_pick_eq_none {m : PairMap} (hm : s.structure? n = some m) (h : pick m k = none) :
    s.endWait.neighbour pick q n k = s.endWait.raiseError q .eNoNeighbour := by
  simp only [State.neighbour, State.structure?_endWait, hm, h]

theorem State.neighbour_of_pick_eq_some {m : PairMap} {k' : Key} {v : Value} (hm : s.structure? n = some m)
    (h : pick m k = some (k', v)) :
    s.endWait.neighbour pick q n k = s.endWait.deliver q true .ok (some k') (some v) := by
  simp only [State.neighbour, State.structure?_endWait, hm, h]

theorem State.neighbourOfKey_of_missing (h : s.present n = false) :
    s.endWait.neighbourOfKey pick q n k = s.endWait.raiseError q .eNoStruct := by
  simp only [State.neighbourOfKey, State.structure?_endWait, State.present_eq_false_iff.mp h]

/-- The base key must be held (R174). -/
theorem State.neighbourOfKey_of_lookup_eq_none (hp : s.present n = true) (h : s.lookup n k = none) :
    s.endWait.neighbourOfKey pick q n k = s.endWait.raiseError q .eNoKey := by
  obtain ⟨m, hm⟩ := State.present_eq_true_iff.mp hp
  have hget : m.get k = none := by simpa [State.lookup, hm] using h
  simp [State.neighbourOfKey, hm, PairMap.has, hget]

/-- On a held base key NEXT and PREV do what NGR and NSM do (R177, R178). -/
theorem State.neighbourOfKey_of_lookup_eq_some {x : Value} (h : s.lookup n k = some x) :
    s.endWait.neighbourOfKey pick q n k = s.endWait.neighbour pick q n k := by
  obtain ⟨m, hm, hget⟩ := State.structure_of_lookup h
  simp [State.neighbourOfKey, hm, PairMap.has, hget]

/-- Every outcome of NSM and NGR delivers one result and changes nothing else. -/
theorem QueryFrame.of_neighbour : QueryFrame s (s.endWait.neighbour pick q n k).advance := by
  unfold State.neighbour
  split
  · exact .of_raiseError s q _
  · split
    · exact .of_raiseError s q _
    · exact .of_deliver s q _ _ _ _

/-- Every outcome of NEXT and PREV delivers one result and changes nothing else. -/
theorem QueryFrame.of_neighbourOfKey : QueryFrame s (s.endWait.neighbourOfKey pick q n k).advance := by
  unfold State.neighbourOfKey
  split
  · exact .of_raiseError s q _
  · split
    · exact .of_neighbour pick q
    · exact .of_raiseError s q _

end Neighbour

section Outcomes

variable {s : State} {n : StrNo} {k : Key} (q : Bool)

/-- Nothing above: E_NO_NEIGHBOUR. -/
theorem NoneAbove.failed (hok : s.StructuresOk) (hp : s.present n = true) (h : NoneAbove s n k) :
    Failed q .eNoNeighbour s (s.endWait.neighbour PairMap.above q n k).advance := by
  obtain ⟨m, hm⟩ := State.present_eq_true_iff.mp hp
  rw [State.neighbour_of_pick_eq_none _ q hm (h.above_eq hok hm)]
  exact .of_raiseError s q _

/-- Nothing below: E_NO_NEIGHBOUR. -/
theorem NoneBelow.failed (hok : s.StructuresOk) (hp : s.present n = true) (h : NoneBelow s n k) :
    Failed q .eNoNeighbour s (s.endWait.neighbour PairMap.below q n k).advance := by
  obtain ⟨m, hm⟩ := State.present_eq_true_iff.mp hp
  rw [State.neighbour_of_pick_eq_none _ q hm (h.below_eq hok hm)]
  exact .of_raiseError s q _

/-- The pair at succ is delivered. -/
theorem IsAbove.delivered {k' : Key} {v : Value} (hok : s.StructuresOk) (h : IsAbove s n k k' v) :
    Delivered q true .ok k' v s (s.endWait.neighbour PairMap.above q n k).advance := by
  obtain ⟨m, hm, -⟩ := State.structure_of_lookup h.1
  rw [State.neighbour_of_pick_eq_some _ q hm (h.above_eq hok hm)]
  exact .of_query s q true .ok (some k') (some v)

/-- The pair at pred is delivered. -/
theorem IsBelow.delivered {k' : Key} {v : Value} (hok : s.StructuresOk) (h : IsBelow s n k k' v) :
    Delivered q true .ok k' v s (s.endWait.neighbour PairMap.below q n k).advance := by
  obtain ⟨m, hm, -⟩ := State.structure_of_lookup h.1
  rw [State.neighbour_of_pick_eq_some _ q hm (h.below_eq hok hm)]
  exact .of_query s q true .ok (some k') (some v)

/-- No key is below 0. -/
theorem NoneBelow.zero (s : State) (n : StrNo) : NoneBelow s n 0#64 :=
  fun _ _ _ => BitVec.not_lt_zero

/-- No key is above 2^64 - 1. -/
theorem NoneAbove.allOnes (s : State) (n : StrNo) : NoneAbove s n 0xFFFFFFFFFFFFFFFF#64 :=
  fun j _ _ => BitVec.not_allOnes_lt (x := j)

end Outcomes

/-- Settles O30: NEXT fails without its structure or its base key, and on a held key it does what NGR does. -/
theorem nextFollowsItsRule : Obligations.NextFollowsItsRule := by
  refine ⟨fun p slot h => decode_next h, fun s q str key n k hok hs =>
    ⟨_, exec_next_eq hs q, .of_neighbourOfKey _ q, fun hp => ?_, fun hp hk => ?_, fun x hx hnone => ?_,
      fun x k' v hx habove => ?_⟩⟩
  · rw [State.neighbourOfKey_of_missing _ q hp]
    exact .of_raiseError s q _
  · rw [State.neighbourOfKey_of_lookup_eq_none _ q hp hk]
    exact .of_raiseError s q _
  · rw [State.neighbourOfKey_of_lookup_eq_some _ q hx]
    obtain ⟨m, hm, -⟩ := State.structure_of_lookup hx
    exact hnone.failed q hok (State.present_eq_true_iff.mpr ⟨m, hm⟩)
  · rw [State.neighbourOfKey_of_lookup_eq_some _ q hx]
    exact habove.delivered q hok

/-- Settles O32: NSM and NGR need the structure only; the corner keys have no neighbour on their side, and on a held
key PREV and NEXT do the same. -/
theorem nearestKeysFollowTheirRules : Obligations.NearestKeysFollowTheirRules := by
  refine ⟨fun p slot h => decode_nsm h, fun p slot h => decode_ngr h, fun s q str key n k hok hs =>
    ⟨⟨_, exec_nsm_eq hs q, .of_neighbour _ q, fun hp => ?_, fun hp h => h.failed q hok hp,
        fun k' v h => h.delivered q hok, ?_⟩,
      ⟨_, exec_ngr_eq hs q, .of_neighbour _ q, fun hp => ?_, fun hp h => h.failed q hok hp,
        fun k' v h => h.delivered q hok, ?_⟩, fun x hx => ?_⟩⟩
  · rw [State.neighbour_of_missing _ q hp]
    exact .of_raiseError s q _
  · rintro hp rfl
    exact (NoneBelow.zero s n).failed q hok hp
  · rw [State.neighbour_of_missing _ q hp]
    exact .of_raiseError s q _
  · rintro hp rfl
    exact (NoneAbove.allOnes s n).failed q hok hp
  · rw [exec_nsm_eq hs, exec_prev_eq hs, exec_ngr_eq hs, exec_next_eq hs,
      State.neighbourOfKey_of_lookup_eq_some _ q hx, State.neighbourOfKey_of_lookup_eq_some _ q hx]
    exact ⟨rfl, rfl⟩

end Sys2Proof.Machine

/-! Tag data of the host (spec/44_coprocessor_mode.md R246): the rule of an admitted window write and of a wait cell
first, then the statement that rests on them. -/

namespace Sys2Proof.Machine

/-- An aligned 32-bit write inside the window is one of the register at its offset (R38, R84). -/
theorem State.hostAccess_write_of_admitted (s : State) {addr : Nat} (h : admittedAccess addr 4 = true) (v : Reg) :
    s.hostAccess (.write addr 4 v) = s.writeWindow addr v :=
  if_pos h

/-- A cell still waits exactly when it is in the awaited state (R213). -/
theorem TagCell.isAwaited_iff {c : TagCell} : c.isAwaited = true ↔ c = .awaited := by
  cases c <;> simp [TagCell.isAwaited]

/-- Settles O45: each register is written at its own offset; a TAGi_H write looks at cell i alone, and the datum it
leaves there is the operand's value. -/
theorem tagWriteDeliversDatum : Obligations.TagWriteDeliversDatum := by
  refine fun s v => ⟨?tagL, ?tag0, ?tag1, ?tag2, fun f d => rfl⟩
  case tagL => exact s.hostAccess_write_of_admitted (by decide) v
  case tag0 => exact (s.hostAccess_write_of_admitted (by decide) v).trans (if_congr TagCell.isAwaited_iff rfl rfl)
  case tag1 => exact (s.hostAccess_write_of_admitted (by decide) v).trans (if_congr TagCell.isAwaited_iff rfl rfl)
  case tag2 => exact (s.hostAccess_write_of_admitted (by decide) v).trans (if_congr TagCell.isAwaited_iff rfl rfl)

end Sys2Proof.Machine

/-! What the execution of a command changes and what it keeps, for either stream (spec/10_state.md R20 to R29,
spec/43_jump.md R213): the statements about every command that gives a next state. -/

namespace Sys2Proof.Machine

/-- JT is the only jump. -/
theorem Instr.eq_jt_of_isJump {i : Instr} (h : i.isJump = true) : ∃ t0 addr, i = .jt t0 addr := by
  cases i with
  | jt t0 addr => exact ⟨t0, addr, rfl⟩
  | _ => cases h

/-- A completed command with its advance, seen from before the wait ended: what it delivers. -/
theorem Delivered.of_effect {q v : Bool} {c : Cause} {k : Key} {x : Value} {s u : State}
    (h : Delivered q v c k x s.endWait u) : Delivered q v c k x s u.advance := by
  obtain ⟨h1, h2, h3, h4, h5, h6, h7, h8, h9⟩ := h
  constructor <;> simp_all

/-- A JT changes no structure. -/
theorem execJt_structure? {s t : State} {t0 : Bool} {addr : Operand Nat} (h : execJt t0 addr s = .next t) (n : StrNo) :
    t.structure? n = s.structure? n := by
  rcases execJt_next h with ⟨-, rfl⟩ | ⟨-, -, a, rfl⟩ | ⟨-, -, hw⟩
  · rfl
  · rfl
  · obtain ⟨-, rfl⟩ := State.waitTags_next hw
    rfl

/-- A command changes no structure but its destination. -/
theorem exec_structure?_of_ne_destination {i : Instr} {s t : State} (h : exec i s = .next t) {n : StrNo}
    (hn : ∀ o, i.destination = some o → resolve strOfDatum o s.cells.t0 ≠ some n) :
    t.structure? n = s.structure? n := by
  cases hj : i.isJump with
  | true =>
    obtain ⟨t0, addr, rfl⟩ := Instr.eq_jt_of_isJump hj
    exact execJt_structure? h n
  | false =>
    rcases exec_executed hj h with ⟨-, hw⟩ | ⟨-, u, he, rfl⟩
    · obtain ⟨-, rfl⟩ := State.waitTags_next hw
      rfl
    · rw [State.structure?_advance, he.others n, State.structure?_endWait]
      intro hd
      obtain ⟨o, ho, hr⟩ := Option.bind_eq_some_iff.mp hd
      exact hn o ho hr

/-- Settles O14: the frame of `exec` and the effect of a command on other structures. -/
theorem commandsWriteOnlyTheirDestination : Obligations.CommandsWriteOnlyTheirDestination :=
  fun _ _ _ h => ⟨(exec_frame h).1, fun _ hn => exec_structure?_of_ne_destination h hn⟩

/-- A MISD command whose operands are known ends the wait and, but for JT, leaves IP + 1 (R26, R213). -/
theorem exec_misd_of_ready {i : Instr} {s t : State} (h : exec i s = .next t) (hi : s.issuer = .misd)
    (hr : i.ready s = true) :
    t.wait = TagWait.idle ∧ t.fetched = none ∧ (i.isJump = false → t.ip = s.ip + 1) := by
  cases hj : i.isJump with
  | true =>
    obtain ⟨t0, addr, rfl⟩ := Instr.eq_jt_of_isJump hj
    rcases execJt_next h with ⟨hc, -⟩ | ⟨-, -, a, rfl⟩ | ⟨-, hn, -⟩
    · simp [hi] at hc
    · exact ⟨rfl, rfl, nofun⟩
    · simp [hr] at hn
  | false =>
    rcases exec_executed hj h with ⟨hn, -⟩ | ⟨-, u, he, rfl⟩
    · simp [hr] at hn
    · have hadv : Advanced s u.advance := State.advanced_of he.ip he.wait (by simp [he.untouched.issuer])
      simp only [Advanced, hi] at hadv
      obtain ⟨hip, hwait, hfetched⟩ := hadv
      exact ⟨hwait, hfetched, fun _ => hip⟩

/-- A MISD command whose operands are not known changes only the wait, and then waits (R29, R213). -/
theorem exec_misd_of_not_ready {i : Instr} {s t : State} (h : exec i s = .next t) (hi : s.issuer = .misd)
    (hr : i.ready s = false) : t = { s with wait := t.wait } ∧ t.wait.blocked = true := by
  have hw : s.waitTags i.tags.1 i.tags.2.1 i.tags.2.2 = .next t := by
    cases hj : i.isJump with
    | true =>
      obtain ⟨t0, addr, rfl⟩ := Instr.eq_jt_of_isJump hj
      rcases execJt_next h with ⟨hc, -⟩ | ⟨-, hk, -⟩ | ⟨-, -, hw⟩
      · simp [hi] at hc
      · simp [hr] at hk
      · exact hw
    | false =>
      rcases exec_executed hj h with ⟨-, hw⟩ | ⟨hk, -, -, -⟩
      · exact hw
      · simp [hr] at hk
  obtain ⟨-, hs, hb, -⟩ := State.waitTags_of_not_ready hw hr
  exact ⟨hs, hb⟩

/-- Settles O15: the frame of the coprocessor stream, and the two cases of a MISD command. -/
theorem streamsAdvance : Obligations.StreamsAdvance := by
  intro i s t h
  obtain ⟨-, hcoprocessor, -, -⟩ := exec_frame h
  split
  · next hi => exact hcoprocessor hi
  · next hi =>
    split
    · next hr => exact exec_misd_of_ready h hi hr
    · next hr => exact exec_misd_of_not_ready h hi (Bool.eq_false_iff.mpr hr)

/-- Settles O16: the command begins the wait for its operands, and a blocked stream is not among the enabled agents. -/
theorem unreadyCommandsWait : Obligations.UnreadyCommandsWait := by
  intro i s hi hd hr
  have hw : s.waitTags i.tags.1 i.tags.2.1 i.tags.2.2 = .next { s with
      wait := ⟨s.wait.t0.hold i.tags.1, s.wait.t1.hold i.tags.2.1, s.wait.t2.hold i.tags.2.2⟩ } := by
    simp only [State.waitTags, hi]
  obtain ⟨-, -, hb, -⟩ := State.waitTags_of_not_ready hw hr
  refine ⟨_, (exec_of_not_ready i s hi hd hr).trans hw, hb, rfl, rfl, rfl, fun hm => ?_⟩
  obtain ⟨-, hb'⟩ := (State.mem_enabledAgents_misd _).mp hm
  exact absurd hb (Bool.eq_false_iff.mp hb')

/-- A command but JT whose operands are known has its effect, and its stream goes on. -/
theorem exec_effect {i : Instr} {s t : State} (hj : i.isJump = false) (hr : i.ready s = true)
    (h : exec i s = .next t) :
    ∃ u, Effect i.q (i.destination.bind fun o => resolve strOfDatum o s.cells.t0) s.endWait u ∧ t = u.advance := by
  rcases exec_executed hj h with ⟨hn, -⟩ | ⟨-, u, he, ht⟩
  · simp [hr] at hn
  · exact ⟨u, he, ht⟩

/-- Settles O17: the delivery is part of the effect of a command. -/
theorem completedCommandsDeliver : Obligations.CompletedCommandsDeliver := by
  intro i s t hj hr h
  obtain ⟨u, he, rfl⟩ := exec_effect hj hr h
  obtain ⟨c, k, x, hd⟩ := he.delivered
  exact ⟨c, k, x, hd.of_effect⟩

/-- INS that ends without space changes no structure (R156). -/
theorem exec_ins_structure?_of_noSpace {q : Bool} {str : Operand StrNo} {key : Operand Key} {value : Operand Value}
    {s t : State} (h : exec (.ins q str key value) s = .next t) (hc : t.last.cause = some .eNoSpace) (n : StrNo) :
    t.structure? n = s.structure? n := by
  change execIns q str key value s = .next t at h
  rcases withStrKeyValue_next h with ⟨m, k, v, -, hk⟩ | ⟨-, hw⟩
  · obtain rfl := State.finish_next hk
    simp only [State.advance_last] at hc
    rw [State.structure?_advance, State.insert_noSpace hc, State.structure?_endWait]
  · obtain ⟨-, rfl⟩ := State.waitTags_next hw
    rfl

/-- Settles O18: a cause other than the two excepted ones leaves every structure; E_NO_SPACE leaves every structure
after INS, and every structure but the destination after the others. -/
theorem failedCommandsKeepStructures : Obligations.FailedCommandsKeepStructures := by
  intro i s t n hj hr h hv hevict hcase
  by_cases hc : t.last.cause = some .eNoSpace
  · rcases hcase with hne | ⟨q, str, key, value, rfl⟩ | hdest
    · exact absurd hc hne
    · exact exec_ins_structure?_of_noSpace h hc n
    · exact exec_structure?_of_ne_destination h hdest
  · obtain ⟨u, he, rfl⟩ := exec_effect hj hr h
    simp only [State.advance_last] at hv hevict hc
    rw [State.structure?_advance, he.failed hv hevict hc, State.structure?_endWait]

end Sys2Proof.Machine

/-! The invariant of the machine (spec/10_state.md R21 to R33, U11, U14): what a command, an access of the host and a
reset keep of it, and that every step keeps it. -/

namespace Sys2Proof.Machine

/-! ### The invariant without the wait -/

/-- The invariant of the machine but for the wait, which alone speaks of the fetch unit and of PCI2SYS. -/
structure State.DataInv (s : State) : Prop where
  params : s.params.wf
  structures : s.StructuresOk
  lcm : s.LcmOk
  queues : s.QueuesOk
  results : s.ResultsOk
  dma : s.DmaOk

theorem State.inv_iff {s : State} : s.Inv ↔ s.DataInv ∧ s.WaitOk :=
  ⟨fun h => ⟨⟨h.params, h.structures, h.lcm, h.queues, h.results, h.dma⟩, h.wait⟩,
    fun ⟨hd, hw⟩ => ⟨hd.params, hd.structures, hd.lcm, hd.queues, hd.results, hd.dma, hw⟩⟩

/-- The fetch unit holds no command and waits for nothing. -/
theorem State.WaitOk.of_idle {s : State} (hw : s.wait = TagWait.idle) (hf : s.fetched = none) : s.WaitOk where
  idle := by simp [hw, hf]
  command := by simp [hf]
  enabled := by simp [hw]

/-- A machine without structures and with empty queues, whose stream waits for nothing. -/
theorem State.Inv.of_cleared {s : State} (hp : s.params.wf) (hs : ∀ n, s.structure? n = none) (hl : s.LcmOk)
    (hc2s : s.c2s = []) (hs2c : s.s2c = []) (hr : s.last.r = true) (hc : s.last.cause = none) (hd : s.DmaOk)
    (hw : s.wait = TagWait.idle) (hf : s.fetched = none) : s.Inv where
  params := hp
  structures := fun n m hm => by simp [hs] at hm
  lcm := hl
  queues := ⟨by simp [hc2s], by simp [hs2c], by simp [hc2s]⟩
  results := ⟨hr, by simp [hc], by simp [hs2c]⟩
  dma := hd
  wait := .of_idle hw hf

/-- A machine whose structures are all deleted. -/
theorem State.structure?_of_replicate {s : State} (h : s.structs = Vector.replicate Config.strNum none) (n : StrNo) :
    s.structure? n = none := by
  unfold State.structure?
  split
  · rfl
  · simp [h, strNo_index_lt n]

/-! ### Resets -/

theorem State.lcmOk_of_nil {s : State} (h : s.lcm = []) : s.LcmOk := by
  simp [State.LcmOk, h, Memory.wf]

theorem State.dmaOk_of_zero {s : State} (h : s.control0 = 0) : s.DmaOk := by
  simp [State.DmaOk, State.lcmDma, h]

/-- The software reset brings about the invariant where LCM and CONTROL0, which it keeps, meet it (R76). -/
theorem State.softwareReset_inv {s : State} (hp : s.params.wf) (hl : s.LcmOk) (hd : s.DmaOk) : s.softwareReset.Inv :=
  .of_cleared hp (State.structure?_of_replicate rfl) hl rfl rfl rfl rfl hd rfl rfl

/-- The hardware reset brings about the invariant (R75). -/
theorem State.hardwareReset_inv {s : State} (hp : s.params.wf) : s.hardwareReset.Inv :=
  .of_cleared hp (State.structure?_of_replicate rfl) (State.lcmOk_of_nil rfl) rfl rfl rfl rfl
    (State.dmaOk_of_zero rfl) rfl rfl

/-- Settles O11: right after reset the machine is cleared, with the parameters of the prototype. -/
theorem resetMeetsInvariant : Obligations.ResetMeetsInvariant :=
  .of_cleared (by decide) (State.structure?_of_replicate rfl) (State.lcmOk_of_nil rfl) rfl rfl rfl rfl
    (State.dmaOk_of_zero rfl) rfl rfl

/-! ### The beginning of a step -/

/-- The clock, the draw number and the turn are no part of the invariant. -/
theorem State.Inv.beginStep {s : State} (h : s.Inv) : s.beginStep.Inv := by
  obtain ⟨hp, hs, hl, hq, hr, hd, hw⟩ := h
  unfold State.beginStep State.tick
  split
  · exact ⟨hp, hs, hl, hq, hr, hd, ⟨hw.idle, hw.command, hw.enabled⟩⟩
  · exact ⟨hp, hs, hl, hq, hr, hd, ⟨hw.idle, hw.command, hw.enabled⟩⟩

/-! ### Commands -/

/-- What an untouched frame, a canonical content and one delivery keep of the invariant. -/
theorem State.DataInv.of_delivered {s t : State} (h : s.DataInv) (hu : Untouched s t) (hs : t.StructuresOk) {q : Bool}
    {c : Cause} {k : Key} {x : Value} (hd : Delivered q (causeV c) c k x s t) : t.DataInv where
  params := hu.params ▸ h.params
  structures := hs
  lcm := by simpa only [State.LcmOk, hu.lcm, hu.params] using h.lcm
  queues := by
    obtain ⟨hc2s, hs2c, hopc⟩ := h.queues
    obtain ⟨-, -, -, -, -, -, -, hdepth, -⟩ := h.params
    exact ⟨by simpa only [hu.c2s, hu.params] using hc2s,
      by simpa only [hu.params] using hd.s2c_length hdepth hs2c, by simpa only [hu.c2s] using hopc⟩
  results := hd.resultsOk rfl h.results
  dma := by simpa only [State.DmaOk, State.lcmDma, State.lsmDma, hu.control0] using h.dma

/-- The fetch unit and IP are no part of the invariant without the wait. -/
theorem State.DataInv.setFetchUnit {s : State} (h : s.DataInv) (a : Nat) (w : TagWait) (f : Option Slot) :
    State.DataInv { s with ip := a, wait := w, fetched := f } :=
  ⟨h.params, h.structures, h.lcm, h.queues, h.results, h.dma⟩

/-- A wait changes no more than the fetch unit. -/
theorem State.DataInv.waitTags {s t : State} (h : s.DataInv) {a b c : Bool} (hw : s.waitTags a b c = .next t) :
    t.DataInv := by
  obtain ⟨-, rfl⟩ := State.waitTags_next hw
  exact h.setFetchUnit s.ip _ s.fetched

/-- Every command keeps the invariant without the wait. -/
theorem exec_keeps_dataInv {i : Instr} {s t : State} (h : exec i s = .next t) (hs : s.DataInv) : t.DataInv := by
  cases hj : i.isJump with
  | true =>
    obtain ⟨t0, addr, rfl⟩ := Instr.eq_jt_of_isJump hj
    rcases execJt_next h with ⟨-, rfl⟩ | ⟨-, -, a, rfl⟩ | ⟨-, -, hw⟩
    · exact hs
    · exact hs.setFetchUnit a TagWait.idle none
    · exact hs.waitTags hw
  | false =>
    rcases exec_executed hj h with ⟨-, hw⟩ | ⟨-, u, he, rfl⟩
    · exact hs.waitTags hw
    · obtain ⟨c, k, x, hd⟩ := he.delivered
      have hok : s.endWait.StructuresOk := hs.structures.congr (by simp) (by simp)
      exact hs.of_delivered (exec_frame h).1 ((he.structures hok).congr (by simp) (by simp)) hd.of_effect

/-- A command of the coprocessor stream leaves the wait as it is. -/
theorem exec_coprocessor_keeps_waitOk {i : Instr} {s t : State} (h : exec i s = .next t)
    (hi : s.issuer = .coprocessor) (hs : s.WaitOk) : t.WaitOk := by
  obtain ⟨hu, hframe, -, -⟩ := exec_frame h
  obtain ⟨-, hwait, hfetched⟩ := hframe hi
  constructor
  · simpa only [hwait, hfetched] using hs.idle
  · simpa only [hfetched, hu.params] using hs.command
  · simpa only [hwait, hu.pci2sys, State.misdEnabled, hu.control0] using hs.enabled

/-- A command of the MISD stream ends the wait, or its stream waits while the command stays fetched. -/
theorem exec_misd_keeps_waitOk {i : Instr} {s t : State} {c : Slot} (h : exec i s = .next t) (hi : s.issuer = .misd)
    (hf : s.fetched = some c) (hc : decode s.params c = .ok i) (he : s.misdEnabled = true) : t.WaitOk := by
  cases hr : i.ready s with
  | true =>
    obtain ⟨hw, hn, -⟩ := exec_misd_of_ready h hi hr
    exact .of_idle hw hn
  | false =>
    obtain ⟨ht, hb⟩ := exec_misd_of_not_ready h hi hr
    rw [ht]
    constructor
    · simp [hf, TagWait.ne_idle_of_blocked hb]
    · intro c' hc'
      obtain rfl : c = c' := Option.some.inj (hf.symm.trans hc')
      exact ⟨i, hc⟩
    · exact fun _ => .inl he

/-! ### Accesses of the host -/

/-- A write to CONTROL1 keeps the invariant without the wait. -/
theorem State.DataInv.control1Actions {s : State} (h : s.DataInv) (v : Reg) : (s.control1Actions v).DataInv := by
  have hreset : (doWhen (v.getLsbD 0) State.softwareReset s).DataInv := by
    unfold doWhen
    split
    · exact (State.inv_iff.mp (State.softwareReset_inv h.params h.lcm h.dma)).1
    · exact h
  rw [State.control1Actions_eq]
  obtain ⟨hp, hs, hl, ⟨hc2s, hs2c, hopc⟩, ⟨hr, hlast, hentries⟩, hd⟩ := hreset
  refine ⟨hp, hs, hl, ⟨hc2s, ?_, hopc⟩, ⟨hr, hlast, ?_⟩, hd⟩
  · dsimp only
    split
    · simp
    · split
      · exact (List.tail_sublist _).length_le.trans hs2c
      · exact hs2c
  · dsimp only
    split
    · simp
    · split
      · exact fun e he => hentries e (List.mem_of_mem_tail he)
      · exact hentries

/-- A command that joins C2S keeps the invariant without the wait (R232). -/
theorem State.DataInv.queueCommand {s : State} (h : s.DataInv) {c : CmdFields} (hc : assignedOpcode c.opc = true)
    (hl : s.c2s.length < s.params.c2sDepth) : State.DataInv { s with c2s := s.c2s ++ [s.commandEntry c] } := by
  obtain ⟨-, hs2c, hopc⟩ := h.queues
  refine ⟨h.params, h.structures, h.lcm, ⟨by simpa using hl, hs2c, fun e he => ?_⟩, h.results, h.dma⟩
  rcases List.mem_append.mp he with he | he
  · exact hopc e he
  · obtain rfl := List.mem_singleton.mp he
    exact hc

/-- Every access of the host keeps the invariant without the wait. -/
theorem State.hostAccess_keeps_dataInv {s t : State} {a : HostAccess} (h : s.hostAccess a = .next t)
    (hs : s.DataInv) : t.DataInv := by
  obtain ⟨hp, hstr, hl, hq, hr, hd⟩ := id hs
  rcases State.hostAccess_next h with ⟨r, rfl, -⟩ | ⟨addr, v, rfl, hw⟩ | ⟨b, c, rfl, -, -, hb, rfl⟩
  · exact ⟨hp, hstr, hl, hq, hr, hd⟩
  · rcases State.writeWindow_next hw with ⟨x, rfl⟩ | ⟨x, rfl⟩ | ⟨-, hw⟩ | ⟨-, hw⟩ | ⟨-, rfl⟩ | ⟨x, rfl⟩ |
      ⟨x, q, rfl⟩ | ⟨x, rfl⟩ | ⟨x, q, rfl⟩ | ⟨x, rfl⟩ | ⟨-, w, -, rfl⟩ | ⟨x, rfl⟩
    case inr.inr.inl =>
      rcases State.writeCmd_next hw with rfl | rfl | ⟨hopc, hlen, rfl⟩
      · exact hs
      · exact ⟨hp, hstr, hl, hq, hr, hd⟩
      · exact hs.queueCommand hopc hlen
    case inr.inr.inr.inl =>
      obtain ⟨hdma, -, rfl⟩ := State.writeControl0_next hw
      exact ⟨hp, hstr, hl, hq, hr, hdma⟩
    case inr.inr.inr.inr.inl => exact hs.control1Actions v
    all_goals exact ⟨hp, hstr, hl, hq, hr, hd⟩
  · obtain ⟨hwf, hrange⟩ := hl
    refine ⟨hp, hstr, ⟨Memory.write_wf hwf b c, fun p hp => ?_⟩, hq, hr, hd⟩
    rcases Memory.mem_write hp with rfl | hp
    · exact hb
    · exact hrange p hp

/-- What a pending access leaves of the wait when it is performed: an access that does not abandon the wait is admitted
only while the mode is enabled. -/
theorem State.WaitOk.enabled_of_pending {s : State} {a : HostAccess}
    (h : State.WaitOk { s with pci2sys := a :: s.pci2sys }) (ha : a.abandonsWait = false) (hb : s.wait.blocked = true) :
    s.misdEnabled = true := by
  simpa [State.misdEnabled, ha] using h.enabled hb

/-- After a write to CONTROL1 the wait is abandoned, or it goes on in the mode it was in (R51, R57). -/
theorem State.control1Actions_keeps_waitOk {s : State} {v : Reg}
    (h : State.WaitOk { s with pci2sys := .write 0x48 4 v :: s.pci2sys }) : (s.control1Actions v).WaitOk := by
  rw [State.control1Actions_eq]
  cases h6 : v.getLsbD 6 with
  | true => exact .of_idle rfl rfl
  | false =>
    cases h0 : v.getLsbD 0 with
    | true => exact .of_idle rfl rfl
    | false =>
      have ha : HostAccess.abandonsWait (.write 0x48 4 v) = false := by simp only [HostAccess.abandonsWait, h6, h0]; rfl
      exact ⟨h.idle, h.command, fun hb => .inl (h.enabled_of_pending ha hb)⟩

/-- An access of the host keeps the wait as the invariant has it, where the access still stood in PCI2SYS before. -/
theorem State.hostAccess_keeps_waitOk {s t : State} {a : HostAccess} (h : s.hostAccess a = .next t)
    (hs : State.WaitOk { s with pci2sys := a :: s.pci2sys }) : t.WaitOk := by
  rcases State.hostAccess_next h with ⟨r, rfl, ha⟩ | ⟨addr, v, rfl, hw⟩ | ⟨b, c, rfl, -, hb, -, rfl⟩
  · exact ⟨hs.idle, hs.command, fun hb => .inl (hs.enabled_of_pending ha hb)⟩
  · by_cases haddr : addr = 0x48
    · subst haddr
      obtain rfl := State.hostAccess_writeControl1_next h
      exact State.control1Actions_keeps_waitOk hs
    have hen := hs.enabled_of_pending (by simp [HostAccess.abandonsWait, haddr])
    have hkeep : s.WaitOk := ⟨hs.idle, hs.command, fun hb => .inl (hen hb)⟩
    rcases State.writeWindow_next hw with ⟨x, rfl⟩ | ⟨x, rfl⟩ | ⟨-, hw⟩ | ⟨-, hw⟩ | ⟨h48, -⟩ | ⟨x, rfl⟩ |
      ⟨x, q, rfl⟩ | ⟨x, rfl⟩ | ⟨x, q, rfl⟩ | ⟨x, rfl⟩ | ⟨hb, w, hne, rfl⟩ | ⟨x, rfl⟩
    case inr.inr.inl =>
      rcases State.writeCmd_next hw with rfl | rfl | ⟨-, -, rfl⟩
      all_goals exact ⟨hkeep.idle, hkeep.command, hkeep.enabled⟩
    case inr.inr.inr.inl =>
      obtain ⟨-, hmode, rfl⟩ := State.writeControl0_next hw
      exact ⟨hkeep.idle, hkeep.command, hmode⟩
    case inr.inr.inr.inr.inl => exact absurd h48 haddr
    case inr.inr.inr.inr.inr.inr.inr.inr.inr.inr.inl =>
      have hf : s.fetched ≠ none := fun hf => TagWait.ne_idle_of_blocked hb (hkeep.idle.mp hf)
      exact ⟨by simp [hf, hne], hkeep.command, fun _ => .inl (hen hb)⟩
    all_goals exact ⟨hkeep.idle, hkeep.command, hkeep.enabled⟩
  · exact ⟨hs.idle, hs.command, fun hb' => by simp [hb] at hb'⟩

/-! ### The step -/

/-- Settles O10, agent by agent: each keeps the invariant without the wait, and the wait by what it does to the fetch
unit. -/
theorem stepKeepsInvariant : Obligations.StepKeepsInvariant := by
  intro s t hs h
  have hbegin := hs.beginStep
  obtain ⟨hdata, hwait⟩ := State.inv_iff.mp hbegin
  rcases step_next h with ⟨-, rfl⟩ | ⟨-, -, rfl⟩ | ⟨-, -, a, rest, hp, ha⟩ | ⟨-, -, e, rest, i, hc, -, hx⟩ |
    ⟨-, hm, c, i, hf, hx⟩
  case inl => exact State.hardwareReset_inv hdata.params
  case inr.inl => exact hbegin
  case inr.inr.inl =>
    refine State.inv_iff.mpr ⟨State.hostAccess_keeps_dataInv ha ?_, State.hostAccess_keeps_waitOk ha ?_⟩
    · exact ⟨hdata.params, hdata.structures, hdata.lcm, hdata.queues, hdata.results, hdata.dma⟩
    · refine ⟨hwait.idle, hwait.command, ?_⟩
      simpa only [State.misdEnabled, State.beginStep_pci2sys, hp] using hwait.enabled
  case inr.inr.inr.inl =>
    refine State.inv_iff.mpr ⟨exec_keeps_dataInv hx ?_, exec_coprocessor_keeps_waitOk hx rfl ?_⟩
    · obtain ⟨hlen, hs2c, hopc⟩ := hdata.queues
      rw [State.beginStep_c2s, hc] at hlen hopc
      exact ⟨hdata.params, hdata.structures, hdata.lcm,
        ⟨(Nat.le_succ _).trans hlen, hs2c, fun e' he' => hopc e' (List.mem_cons_of_mem e he')⟩,
        hdata.results, hdata.dma⟩
    · exact ⟨hwait.idle, hwait.command, hwait.enabled⟩
  case inr.inr.inr.inr =>
    obtain ⟨hen, -⟩ := (State.mem_enabledAgents_misd s).mp (State.mover_mem hm)
    refine State.inv_iff.mpr ⟨exec_keeps_dataInv hx ?_, exec_misd_keeps_waitOk hx rfl rfl ?_ ?_⟩
    · exact ⟨hdata.params, hdata.structures, hdata.lcm, hdata.queues, hdata.results, hdata.dma⟩
    · simpa using State.decode_of_fetch hf
    · simpa [State.misdEnabled] using hen

end Sys2Proof.Machine

/-! Encoding (spec/30_encoding.md R111 to R120): what the decoder gives for each opcode, what it reads of each format,
then the statements that rest on both. -/

namespace Sys2Proof.Machine

/-! ### The decoder by opcode (R116, R119) -/

section Opcodes

variable {p : Params} {slot : Slot}

theorem decode_del (h : field p.bitOrder 0 5 slot = 0x01#5) :
    decode p slot =
      .ok (.del (bitAt p.bitOrder 8 slot) (operand0 p.bitOrder slot) (operandKey p.bitOrder slot)) := by
  simp only [decode, h]; rfl

theorem decode_ins (h : field p.bitOrder 0 5 slot = 0x02#5) :
    decode p slot =
      .ok (.ins (bitAt p.bitOrder 8 slot) (operand0 p.bitOrder slot) (operandKey p.bitOrder slot)
        (operandValue p.bitOrder slot)) := by
  simp only [decode, h]; rfl

theorem decode_srch (h : field p.bitOrder 0 5 slot = 0x05#5) :
    decode p slot =
      .ok (.srch (bitAt p.bitOrder 8 slot) (operand0 p.bitOrder slot) (operandKey p.bitOrder slot)) := by
  simp only [decode, h]; rfl

theorem decode_sq (h : field p.bitOrder 0 5 slot = 0x06#5) :
    decode p slot = .ok (.sq (bitAt p.bitOrder 8 slot) (operand0 p.bitOrder slot)) := by
  simp only [decode, h]; rfl

theorem decode_cnt (h : field p.bitOrder 0 5 slot = 0x07#5) :
    decode p slot = .ok (.cnt (bitAt p.bitOrder 8 slot) (operand0 p.bitOrder slot)) := by
  simp only [decode, h]; rfl

theorem decode_or (h : field p.bitOrder 0 5 slot = 0x08#5) :
    decode p slot =
      .ok (.or (bitAt p.bitOrder 8 slot) (operand0 p.bitOrder slot) (operandA p.bitOrder slot)
        (operandB p.bitOrder slot)) := by
  simp only [decode, h]; rfl

theorem decode_and (h : field p.bitOrder 0 5 slot = 0x09#5) :
    decode p slot =
      .ok (.and (bitAt p.bitOrder 8 slot) (operand0 p.bitOrder slot) (operandA p.bitOrder slot)
        (operandB p.bitOrder slot)) := by
  simp only [decode, h]; rfl

theorem decode_not (h : field p.bitOrder 0 5 slot = 0x0A#5) :
    decode p slot =
      .ok (.not (bitAt p.bitOrder 8 slot) (operand0 p.bitOrder slot) (operandA p.bitOrder slot)
        (operandB p.bitOrder slot)) := by
  simp only [decode, h]; rfl

theorem decode_lseq (h : field p.bitOrder 0 5 slot = 0x0B#5) :
    decode p slot =
      .ok (.lseq (bitAt p.bitOrder 8 slot) (operand0 p.bitOrder slot) (operandA p.bitOrder slot)
        (operandSliceKey p.bitOrder slot)) := by
  simp only [decode, h]; rfl

theorem decode_ls (h : field p.bitOrder 0 5 slot = 0x0C#5) :
    decode p slot =
      .ok (.ls (bitAt p.bitOrder 8 slot) (operand0 p.bitOrder slot) (operandA p.bitOrder slot)
        (operandSliceKey p.bitOrder slot)) := by
  simp only [decode, h]; rfl

theorem decode_greq (h : field p.bitOrder 0 5 slot = 0x0D#5) :
    decode p slot =
      .ok (.greq (bitAt p.bitOrder 8 slot) (operand0 p.bitOrder slot) (operandA p.bitOrder slot)
        (operandSliceKey p.bitOrder slot)) := by
  simp only [decode, h]; rfl

theorem decode_gr (h : field p.bitOrder 0 5 slot = 0x0E#5) :
    decode p slot =
      .ok (.gr (bitAt p.bitOrder 8 slot) (operand0 p.bitOrder slot) (operandA p.bitOrder slot)
        (operandSliceKey p.bitOrder slot)) := by
  simp only [decode, h]; rfl

theorem decode_dels (h : field p.bitOrder 0 5 slot = 0x0F#5) :
    decode p slot = .ok (.dels (bitAt p.bitOrder 8 slot) (operand0 p.bitOrder slot)) := by
  simp only [decode, h]; rfl

theorem decode_prev (h : field p.bitOrder 0 5 slot = 0x11#5) :
    decode p slot =
      .ok (.prev (bitAt p.bitOrder 8 slot) (operand0 p.bitOrder slot) (operandKey p.bitOrder slot)) := by
  simp only [decode, h]; rfl

/-- An assigned opcode is one of a command (R116). -/
theorem decode_of_assigned (h : assignedOpcode (field p.bitOrder 0 5 slot) = true) : ∃ i, decode p slot = .ok i := by
  cases hd : decode p slot with
  | ok i => exact ⟨i, rfl⟩
  | error e =>
    simp only [decode] at hd
    simp only [assignedOpcode, Bool.and_eq_true, decide_eq_true_eq] at h
    split at hd
    case h_20 =>
      simp only [imp_false] at *
      omega
    all_goals cases hd

/-- An opcode that is not assigned is that of JT or refused (R118, R119). -/
theorem decode_of_not_assigned (h : assignedOpcode (field p.bitOrder 0 5 slot) = false) :
    decode p slot = if field p.bitOrder 0 5 slot = p.opcJt then .ok (.jt (bitAt p.bitOrder 7 slot) (operandAddr p slot))
      else .error (.unassignedOpcode (field p.bitOrder 0 5 slot)) := by
  generalize hr : ite (field p.bitOrder 0 5 slot = p.opcJt) _ _ = r
  simp only [decode]
  split
  case h_20 => exact hr
  all_goals next ho => simp [assignedOpcode, ho] at h

/-- OPC_JT is none of the assigned opcodes (D2). -/
theorem Params.opcJt_not_assigned (hp : p.wf) : assignedOpcode p.opcJt = false := by
  rcases hp.1 with h | h
  · rw [h]
    rfl
  · have hge : 0x14 ≤ p.opcJt.toNat := BitVec.le_def.mp h
    simp only [assignedOpcode, Bool.and_eq_false_iff, decide_eq_false_iff_not]
    omega

end Opcodes

/-- Settles O2: an assigned opcode decodes, and of the others OPC_JT alone. -/
theorem decodeRefusesUnassignedOpcodes : Obligations.DecodeRefusesUnassignedOpcodes := by
  intro p slot
  cases ha : assignedOpcode (field p.bitOrder 0 5 slot) with
  | true =>
    rw [if_pos (.inl rfl)]
    exact decode_of_assigned ha
  | false =>
    rw [decode_of_not_assigned ha]
    by_cases hj : field p.bitOrder 0 5 slot = p.opcJt
    · rw [if_pos (.inr hj), if_pos hj]
      exact ⟨_, rfl⟩
    · rw [if_neg (by simp [hj]), if_neg hj]

/-! ### Encoded commands, by format (R113) -/

section Encoded

variable {p : Params} {opc : BitVec 5}

theorem decode_encodeS {mk : Bool → Operand StrNo → Instr}
    (hmk : ∀ slot, field p.bitOrder 0 5 slot = opc →
      decode p slot = .ok (mk (bitAt p.bitOrder 8 slot) (operand0 p.bitOrder slot)))
    (q t2 : Bool) (str : Operand StrNo) : decode p (encodeS p.bitOrder opc q t2 str) = .ok (mk q str) := by
  obtain ⟨hopc, hq, h0⟩ := decode_fields_S p.bitOrder opc q t2 str
  rw [hmk _ hopc, hq, h0]

theorem decode_encodeSK {mk : Bool → Operand StrNo → Operand Key → Instr}
    (hmk : ∀ slot, field p.bitOrder 0 5 slot = opc →
      decode p slot = .ok (mk (bitAt p.bitOrder 8 slot) (operand0 p.bitOrder slot) (operandKey p.bitOrder slot)))
    (q : Bool) (str : Operand StrNo) (key : Operand Key) :
    decode p (encodeSK p.bitOrder opc q str key) = .ok (mk q str key) := by
  obtain ⟨hopc, hq, h0, h1⟩ := decode_fields_SK p.bitOrder opc q str key
  rw [hmk _ hopc, hq, h0, h1]

theorem decode_encodeSKV {mk : Bool → Operand StrNo → Operand Key → Operand Value → Instr}
    (hmk : ∀ slot, field p.bitOrder 0 5 slot = opc →
      decode p slot = .ok (mk (bitAt p.bitOrder 8 slot) (operand0 p.bitOrder slot) (operandKey p.bitOrder slot)
        (operandValue p.bitOrder slot)))
    (q : Bool) (str : Operand StrNo) (key : Operand Key) (value : Operand Value) :
    decode p (encodeSKV p.bitOrder opc q str key value) = .ok (mk q str key value) := by
  obtain ⟨hopc, hq, h0, h1, h2⟩ := decode_fields_SKV p.bitOrder opc q str key value
  rw [hmk _ hopc, hq, h0, h1, h2]

theorem decode_encodeRAB {mk : Bool → Operand StrNo → Operand StrNo → Operand StrNo → Instr}
    (hmk : ∀ slot, field p.bitOrder 0 5 slot = opc →
      decode p slot = .ok (mk (bitAt p.bitOrder 8 slot) (operand0 p.bitOrder slot) (operandA p.bitOrder slot)
        (operandB p.bitOrder slot)))
    (q : Bool) (r a b : Operand StrNo) : decode p (encodeRAB p.bitOrder opc q r a b) = .ok (mk q r a b) := by
  obtain ⟨hopc, hq, h0, h1, h2⟩ := decode_fields_RAB p.bitOrder opc q r a b
  rw [hmk _ hopc, hq, h0, h1, h2]

theorem decode_encodeRAK {mk : Bool → Operand StrNo → Operand StrNo → Operand Key → Instr}
    (hmk : ∀ slot, field p.bitOrder 0 5 slot = opc →
      decode p slot = .ok (mk (bitAt p.bitOrder 8 slot) (operand0 p.bitOrder slot) (operandA p.bitOrder slot)
        (operandSliceKey p.bitOrder slot)))
    (q : Bool) (r a : Operand StrNo) (key : Operand Key) :
    decode p (encodeRAK p.bitOrder opc q r a key) = .ok (mk q r a key) := by
  obtain ⟨hopc, hq, h0, h1, h2⟩ := decode_fields_RAK p.bitOrder opc q r a key
  rw [hmk _ hopc, hq, h0, h1, h2]

theorem decode_encodeJT (hp : p.wf) (t0 : Bool) {addr : Operand Nat} (ha : addr.wfAddr p) :
    decode p (encodeJT p t0 addr) = .ok (.jt t0 addr) := by
  obtain ⟨hopc, h0, h1⟩ := decode_fields_JT p hp t0 addr ha
  rw [decode_of_not_assigned (by rw [hopc]; exact Params.opcJt_not_assigned hp), if_pos hopc, h0, h1]

end Encoded

/-- Settles O1, command by command: the format of its opcode is read back field by field. -/
theorem decodeInvertsEncode : Obligations.DecodeInvertsEncode := by
  intro p i hp hw
  cases i with
  | del q str key => exact decode_encodeSK (fun _ => decode_del) q str key
  | ins q str key value => exact decode_encodeSKV (fun _ => decode_ins) q str key value
  | min q str => exact decode_encodeS (fun _ => decode_min) q true str
  | max q str => exact decode_encodeS (fun _ => decode_max) q true str
  | srch q str key => exact decode_encodeSK (fun _ => decode_srch) q str key
  | sq q str => exact decode_encodeS (fun _ => decode_sq) q true str
  | cnt q str => exact decode_encodeS (fun _ => decode_cnt) q true str
  | or q r a b => exact decode_encodeRAB (fun _ => decode_or) q r a b
  | and q r a b => exact decode_encodeRAB (fun _ => decode_and) q r a b
  | not q r a b => exact decode_encodeRAB (fun _ => decode_not) q r a b
  | lseq q r a key => exact decode_encodeRAK (fun _ => decode_lseq) q r a key
  | ls q r a key => exact decode_encodeRAK (fun _ => decode_ls) q r a key
  | greq q r a key => exact decode_encodeRAK (fun _ => decode_greq) q r a key
  | gr q r a key => exact decode_encodeRAK (fun _ => decode_gr) q r a key
  | dels q str => exact decode_encodeS (fun _ => decode_dels) q str.tag str
  | next q str key => exact decode_encodeSK (fun _ => decode_next) q str key
  | prev q str key => exact decode_encodeSK (fun _ => decode_prev) q str key
  | nsm q str key => exact decode_encodeSK (fun _ => decode_nsm) q str key
  | ngr q str key => exact decode_encodeSK (fun _ => decode_ngr) q str key
  | jt t0 addr => exact decode_encodeJT hp t0 (of_decide_eq_true hw)

/-! ### The fields the decoder reads (R114, R117) -/

section Read

variable {o : BitOrder} {slot slot' : Slot}

theorem bitAt_congr {off : Nat} (h : field o off 1 slot' = field o off 1 slot) :
    bitAt o off slot' = bitAt o off slot := by
  simp only [bitAt, h]

/-- The field of an operand whose tag is 0 is not read. -/
theorem operandOf_congr {α : Type} {off : Nat} {v v' : α} (ht : field o off 1 slot' = field o off 1 slot)
    (hv : bitAt o off slot = true → v' = v) :
    operandOf (bitAt o off slot') v' = operandOf (bitAt o off slot) v := by
  rw [bitAt_congr ht]
  cases h : bitAt o off slot with
  | true => rw [hv h]
  | false => rfl

variable {p : Params}

/-- The second slot agrees with the first in every field the decoder reads of the first when it is of format `f`. -/
def ReadAlike (p : Params) (f : Format) (slot slot' : Slot) : Prop :=
  ∀ w ∈ f.readFields p slot, field p.bitOrder w.1 w.2 slot' = field p.bitOrder w.1 w.2 slot

theorem ReadAlike.opcode {f : Format} (h : ReadAlike p f slot slot') :
    field p.bitOrder 0 5 slot' = field p.bitOrder 0 5 slot :=
  h (0, 5) (by cases f <;> simp [Format.readFields])

/-- T0 and operand 0 are read of every format but F-JT. -/
theorem ReadAlike.operand0 {f : Format} (h : ReadAlike p f slot slot') (hf : f ≠ .fJT) :
    operand0 p.bitOrder slot' = operand0 p.bitOrder slot := by
  refine operandOf_congr (h (7, 1) ?_) fun ht => h (13, 3) ?_
  · cases f <;> simp [Format.readFields]
  · cases f <;> simp_all [Format.readFields]

/-- Q is read of every format but F-JT. -/
theorem ReadAlike.q {f : Format} (h : ReadAlike p f slot slot') (hf : f ≠ .fJT) :
    bitAt p.bitOrder 8 slot' = bitAt p.bitOrder 8 slot := by
  refine bitAt_congr (h (8, 1) ?_)
  cases f <;> simp_all [Format.readFields]

theorem ReadAlike.operandKey {f : Format} (h : ReadAlike p f slot slot') (hf : f = .fSK ∨ f = .fSKV) :
    operandKey p.bitOrder slot' = operandKey p.bitOrder slot := by
  refine operandOf_congr (h (6, 1) ?_) fun ht => h (16, 64) ?_
  · rcases hf with rfl | rfl <;> simp [Format.readFields]
  · rcases hf with rfl | rfl <;> simp [Format.readFields, ht]

theorem ReadAlike.operandValue (h : ReadAlike p .fSKV slot slot') :
    operandValue p.bitOrder slot' = operandValue p.bitOrder slot :=
  operandOf_congr (h (5, 1) (by simp [Format.readFields])) fun ht => h (80, 64) (by simp [Format.readFields, ht])

theorem ReadAlike.operandA {f : Format} (h : ReadAlike p f slot slot') (hf : f = .fRAB ∨ f = .fRAK) :
    operandA p.bitOrder slot' = operandA p.bitOrder slot := by
  refine operandOf_congr (h (6, 1) ?_) fun ht => h (21, 3) ?_
  · rcases hf with rfl | rfl <;> simp [Format.readFields]
  · rcases hf with rfl | rfl <;> simp [Format.readFields, ht]

theorem ReadAlike.operandB (h : ReadAlike p .fRAB slot slot') :
    operandB p.bitOrder slot' = operandB p.bitOrder slot :=
  operandOf_congr (h (5, 1) (by simp [Format.readFields])) fun ht => h (29, 3) (by simp [Format.readFields, ht])

theorem ReadAlike.operandSliceKey (h : ReadAlike p .fRAK slot slot') :
    operandSliceKey p.bitOrder slot' = operandSliceKey p.bitOrder slot :=
  operandOf_congr (h (5, 1) (by simp [Format.readFields])) fun ht => h (24, 64) (by simp [Format.readFields, ht])

theorem ReadAlike.operandAddr (h : ReadAlike p .fJT slot slot') : operandAddr p slot' = operandAddr p slot :=
  operandOf_congr (h (6, 1) (by simp [Format.readFields])) fun ht =>
    congrArg BitVec.toNat (h (p.jtOff, p.jtAddrBits) (by simp [Format.readFields, ht]))

theorem ReadAlike.branchTag (h : ReadAlike p .fJT slot slot') : bitAt p.bitOrder 7 slot' = bitAt p.bitOrder 7 slot :=
  bitAt_congr (h (7, 1) (by simp [Format.readFields]))

/-! ### Slots that are read alike, by format -/

theorem ReadAlike.decode_fS {mk : Bool → Operand StrNo → Instr}
    (hmk : ∀ c, field p.bitOrder 0 5 c = field p.bitOrder 0 5 slot →
      decode p c = .ok (mk (bitAt p.bitOrder 8 c) (Sys2Proof.operand0 p.bitOrder c)))
    (h : ReadAlike p .fS slot slot') : decode p slot' = decode p slot := by
  rw [hmk slot' h.opcode, hmk slot rfl, h.q nofun, h.operand0 nofun]

theorem ReadAlike.decode_fSK {mk : Bool → Operand StrNo → Operand Key → Instr}
    (hmk : ∀ c, field p.bitOrder 0 5 c = field p.bitOrder 0 5 slot → decode p c =
      .ok (mk (bitAt p.bitOrder 8 c) (Sys2Proof.operand0 p.bitOrder c) (Sys2Proof.operandKey p.bitOrder c)))
    (h : ReadAlike p .fSK slot slot') : decode p slot' = decode p slot := by
  rw [hmk slot' h.opcode, hmk slot rfl, h.q nofun, h.operand0 nofun, h.operandKey (.inl rfl)]

theorem ReadAlike.decode_fSKV {mk : Bool → Operand StrNo → Operand Key → Operand Value → Instr}
    (hmk : ∀ c, field p.bitOrder 0 5 c = field p.bitOrder 0 5 slot → decode p c =
      .ok (mk (bitAt p.bitOrder 8 c) (Sys2Proof.operand0 p.bitOrder c) (Sys2Proof.operandKey p.bitOrder c)
        (Sys2Proof.operandValue p.bitOrder c)))
    (h : ReadAlike p .fSKV slot slot') : decode p slot' = decode p slot := by
  rw [hmk slot' h.opcode, hmk slot rfl, h.q nofun, h.operand0 nofun, h.operandKey (.inr rfl), h.operandValue]

theorem ReadAlike.decode_fRAB {mk : Bool → Operand StrNo → Operand StrNo → Operand StrNo → Instr}
    (hmk : ∀ c, field p.bitOrder 0 5 c = field p.bitOrder 0 5 slot → decode p c =
      .ok (mk (bitAt p.bitOrder 8 c) (Sys2Proof.operand0 p.bitOrder c) (Sys2Proof.operandA p.bitOrder c)
        (Sys2Proof.operandB p.bitOrder c)))
    (h : ReadAlike p .fRAB slot slot') : decode p slot' = decode p slot := by
  rw [hmk slot' h.opcode, hmk slot rfl, h.q nofun, h.operand0 nofun, h.operandA (.inl rfl), h.operandB]

theorem ReadAlike.decode_fRAK {mk : Bool → Operand StrNo → Operand StrNo → Operand Key → Instr}
    (hmk : ∀ c, field p.bitOrder 0 5 c = field p.bitOrder 0 5 slot → decode p c =
      .ok (mk (bitAt p.bitOrder 8 c) (Sys2Proof.operand0 p.bitOrder c) (Sys2Proof.operandA p.bitOrder c)
        (Sys2Proof.operandSliceKey p.bitOrder c)))
    (h : ReadAlike p .fRAK slot slot') : decode p slot' = decode p slot := by
  rw [hmk slot' h.opcode, hmk slot rfl, h.q nofun, h.operand0 nofun, h.operandA (.inr rfl), h.operandSliceKey]

theorem ReadAlike.decode_fJT (ha : assignedOpcode (field p.bitOrder 0 5 slot) = false)
    (h : ReadAlike p .fJT slot slot') : decode p slot' = decode p slot := by
  rw [decode_of_not_assigned ha, decode_of_not_assigned (by rw [h.opcode]; exact ha), h.opcode, h.branchTag,
    h.operandAddr]

end Read

/-- Settles O3, opcode by opcode: the command is read off the fields in which the slots agree. -/
theorem decodeIgnoresUnusedBits : Obligations.DecodeIgnoresUnusedBits := by
  intro p slot slot' f hf h
  change ReadAlike p f slot slot' at h
  have opcode_eq {opc : BitVec 5} {c : Slot} (ho : (field p.bitOrder 0 5 slot).toNat = opc.toNat)
      (hc : field p.bitOrder 0 5 c = field p.bitOrder 0 5 slot) : field p.bitOrder 0 5 c = opc :=
    hc.trans (BitVec.eq_of_toNat_eq ho)
  unfold formatOf at hf
  split at hf
  case h_20 =>
    next hne =>
    split at hf
    · obtain rfl := Option.some.inj hf
      refine h.decode_fJT ?_
      simp only [assignedOpcode, Bool.and_eq_false_iff, decide_eq_false_iff_not]
      simp only [imp_false] at *
      omega
    · cases hf
  all_goals obtain rfl := Option.some.inj hf
  case h_1 ho => exact h.decode_fSK fun _ hc => decode_del (opcode_eq ho hc)
  case h_2 ho => exact h.decode_fSKV fun _ hc => decode_ins (opcode_eq ho hc)
  case h_3 ho => exact h.decode_fS fun _ hc => decode_min (opcode_eq ho hc)
  case h_4 ho => exact h.decode_fS fun _ hc => decode_max (opcode_eq ho hc)
  case h_5 ho => exact h.decode_fSK fun _ hc => decode_srch (opcode_eq ho hc)
  case h_6 ho => exact h.decode_fS fun _ hc => decode_sq (opcode_eq ho hc)
  case h_7 ho => exact h.decode_fS fun _ hc => decode_cnt (opcode_eq ho hc)
  case h_8 ho => exact h.decode_fRAB fun _ hc => decode_or (opcode_eq ho hc)
  case h_9 ho => exact h.decode_fRAB fun _ hc => decode_and (opcode_eq ho hc)
  case h_10 ho => exact h.decode_fRAB fun _ hc => decode_not (opcode_eq ho hc)
  case h_11 ho => exact h.decode_fRAK fun _ hc => decode_lseq (opcode_eq ho hc)
  case h_12 ho => exact h.decode_fRAK fun _ hc => decode_ls (opcode_eq ho hc)
  case h_13 ho => exact h.decode_fRAK fun _ hc => decode_greq (opcode_eq ho hc)
  case h_14 ho => exact h.decode_fRAK fun _ hc => decode_gr (opcode_eq ho hc)
  case h_15 ho => exact h.decode_fS fun _ hc => decode_dels (opcode_eq ho hc)
  case h_16 ho => exact h.decode_fSK fun _ hc => decode_next (opcode_eq ho hc)
  case h_17 ho => exact h.decode_fSK fun _ hc => decode_prev (opcode_eq ho hc)
  case h_18 ho => exact h.decode_fSK fun _ hc => decode_nsm (opcode_eq ho hc)
  case h_19 ho => exact h.decode_fSK fun _ hc => decode_ngr (opcode_eq ho hc)

/-! ### Fixed images and operand values -/

/-- Settles O4 by running the decoder on the images. -/
theorem specImagesDecode : Obligations.SpecImagesDecode := by
  unfold Obligations.SpecImagesDecode
  decide

/-- Settles O21: operand assembly and the table of R233, by their definitions. -/
theorem operandsAreTakenWhole : Obligations.OperandsAreTakenWhole := by
  refine ⟨fun n c => rfl, fun k c => rfl, fun d => ⟨strOfDatum d, rfl, ?_⟩, fun d => rfl,
    fun p d => ⟨addrOfDatum p d, rfl, rfl⟩, fun q s0 s1 s2 k v => ?_⟩
  · simp [strOfDatum]
  · exact ⟨rfl, rfl, rfl, rfl, rfl, rfl, rfl, rfl, rfl, rfl, rfl, rfl, rfl, rfl, rfl, rfl, rfl, rfl, rfl⟩

end Sys2Proof.Machine

/-! Where the execution of a command stops (spec/60_exceptions.md R264; U1, U6, U10, U16): the outcomes of the operand
forms, of JT, then the statements that rest on them. -/

namespace Sys2Proof.Machine

/-! ### Structure numbers in use (U1) -/

theorem requireStr_zero (k : Result) : requireStr 0#3 k = .refused .structureZero := if_pos rfl

theorem requireStr_of_ne {n : StrNo} (h : n ≠ 0#3) (k : Result) : requireStr n k = k := if_neg h

/-! ### The outcomes of a command but JT -/

section Outcomes

variable {i : Instr} {s : State}

/-- What a command gives once its operands are known: a next state, or for MIN and MAX the refusal of U6. -/
def Completes (i : Instr) (s : State) (res : Result) : Prop :=
  (∃ t, res = .next t) ∨
  ∃ o n, i.extremumOf = some o ∧ resolve strOfDatum o s.cells.t0 = some n ∧ s.structure? n = some [] ∧
    res = .refused .emptyStructure

/-- What a command but JT gives while the external memory is good: it waits, names structure 0, or completes. -/
inductive ExecGives (i : Instr) (s : State) : Prop where
  | waits (h : i.ready s = false) (e : exec i s = s.waitTags i.tags.1 i.tags.2.1 i.tags.2.2)
  | zero (h : some 0#3 ∈ i.structureNumbers s) (e : exec i s = .refused .structureZero)
  | completes (h : some 0#3 ∉ i.structureNumbers s) (e : Completes i s (exec i s))

theorem Completes.of_finish (u : State) : Completes i s u.finish := .inl ⟨u.advance, rfl⟩

/-- MIN and MAX find an end of every map but the empty one (U6). -/
theorem Completes.of_extremum {pick : PairMap → Option (Key × Value)} (hpick : ∀ m, pick m = none → m = []) (q : Bool)
    {o : Operand StrNo} {n : StrNo} (ho : i.extremumOf = some o) (hn : resolve strOfDatum o s.cells.t0 = some n) :
    Completes i s (s.endWait.extremum pick q n) := by
  unfold State.extremum
  split
  · exact .of_finish _
  · next m hm =>
    split
    · next hp =>
      rw [State.structure?_endWait, hpick m hp] at hm
      exact .inr ⟨o, n, ho, hn, hm, rfl⟩
    · exact .of_finish _

theorem withStr_gives (hd : s.params.ddrBist = true) {str : Operand StrNo} {k : StrNo → State → Result}
    (he : exec i s = withStr str s k) (ht : i.tags = (str.tag, true, true))
    (hs : i.structureNumbers s = [resolve strOfDatum str s.cells.t0])
    (hk : ∀ n, resolve strOfDatum str s.cells.t0 = some n → Completes i s (k n s.endWait)) : ExecGives i s := by
  simp only [withStr, State.whenDdrGood, hd, if_true] at he
  split at he
  · next n hn =>
    by_cases h0 : n = 0#3
    · subst h0
      exact .zero (by simp [hs, hn]) (he.trans (requireStr_zero _))
    · rw [requireStr_of_ne h0] at he
      exact .completes (by simp [hs, hn, Ne.symm h0]) (he ▸ hk n hn)
  · next hn => exact .waits (by simp [Instr.ready, ht, resolve_eq_none.mp hn]) (by rw [he, ht])

theorem withStrKey_gives (hd : s.params.ddrBist = true) {str : Operand StrNo} {key : Operand Key}
    {k : StrNo → Key → State → Result} (he : exec i s = withStrKey str key s k) (ht : i.tags = (str.tag, key.tag, true))
    (hs : i.structureNumbers s = [resolve strOfDatum str s.cells.t0])
    (hk : ∀ n x, Completes i s (k n x s.endWait)) : ExecGives i s := by
  simp only [withStrKey, State.whenDdrGood, hd, if_true] at he
  split at he
  · next n x hn hx =>
    by_cases h0 : n = 0#3
    · subst h0
      exact .zero (by simp [hs, hn]) (he.trans (requireStr_zero _))
    · rw [requireStr_of_ne h0] at he
      exact .completes (by simp [hs, hn, Ne.symm h0]) (he ▸ hk n x)
  · next hn =>
    refine .waits (Bool.eq_false_iff.mpr fun hr => ?_) (by rw [he, ht])
    simp only [Instr.ready, ht, known_true, Bool.and_true, Bool.and_eq_true] at hr
    obtain ⟨n, h0⟩ := (resolve_isSome strOfDatum str _).mpr hr.1
    obtain ⟨x, h1⟩ := (resolve_isSome id key _).mpr hr.2
    exact hn n x h0 h1

theorem withStrKeyValue_gives (hd : s.params.ddrBist = true) {str : Operand StrNo} {key : Operand Key}
    {value : Operand Value} {k : StrNo → Key → Value → State → Result}
    (he : exec i s = withStrKeyValue str key value s k) (ht : i.tags = (str.tag, key.tag, value.tag))
    (hs : i.structureNumbers s = [resolve strOfDatum str s.cells.t0])
    (hk : ∀ n x v, Completes i s (k n x v s.endWait)) : ExecGives i s := by
  simp only [withStrKeyValue, State.whenDdrGood, hd, if_true] at he
  split at he
  · next n x v hn hx hv =>
    by_cases h0 : n = 0#3
    · subst h0
      exact .zero (by simp [hs, hn]) (he.trans (requireStr_zero _))
    · rw [requireStr_of_ne h0] at he
      exact .completes (by simp [hs, hn, Ne.symm h0]) (he ▸ hk n x v)
  · next hn =>
    refine .waits (Bool.eq_false_iff.mpr fun hr => ?_) (by rw [he, ht])
    simp only [Instr.ready, ht, Bool.and_eq_true] at hr
    obtain ⟨⟨hr0, hr1⟩, hr2⟩ := hr
    obtain ⟨n, h0⟩ := (resolve_isSome strOfDatum str _).mpr hr0
    obtain ⟨x, h1⟩ := (resolve_isSome id key _).mpr hr1
    obtain ⟨v, h2⟩ := (resolve_isSome id value _).mpr hr2
    exact hn n x v h0 h1 h2

theorem withRAB_gives (hd : s.params.ddrBist = true) {r a b : Operand StrNo}
    {k : StrNo → StrNo → StrNo → State → Result} (he : exec i s = withRAB r a b s k)
    (ht : i.tags = (r.tag, a.tag, b.tag))
    (hs : i.structureNumbers s = [resolve strOfDatum r s.cells.t0, resolve strOfDatum a s.cells.t1,
      resolve strOfDatum b s.cells.t2])
    (hk : ∀ nr na nb, Completes i s (k nr na nb s.endWait)) : ExecGives i s := by
  simp only [withRAB, State.whenDdrGood, hd, if_true] at he
  split at he
  · next nr na nb hr ha hb =>
    by_cases h0 : nr = 0#3
    · subst h0
      exact .zero (by simp [hs, hr]) (he.trans (requireStr_zero _))
    rw [requireStr_of_ne h0] at he
    by_cases h1 : na = 0#3
    · subst h1
      exact .zero (by simp [hs, ha]) (he.trans (requireStr_zero _))
    rw [requireStr_of_ne h1] at he
    by_cases h2 : nb = 0#3
    · subst h2
      exact .zero (by simp [hs, hb]) (he.trans (requireStr_zero _))
    rw [requireStr_of_ne h2] at he
    exact .completes (by simp [hs, hr, ha, hb, Ne.symm h0, Ne.symm h1, Ne.symm h2]) (he ▸ hk nr na nb)
  · next hn =>
    refine .waits (Bool.eq_false_iff.mpr fun hready => ?_) (by rw [he, ht])
    simp only [Instr.ready, ht, Bool.and_eq_true] at hready
    obtain ⟨⟨hr0, hr1⟩, hr2⟩ := hready
    obtain ⟨nr, h0⟩ := (resolve_isSome strOfDatum r _).mpr hr0
    obtain ⟨na, h1⟩ := (resolve_isSome strOfDatum a _).mpr hr1
    obtain ⟨nb, h2⟩ := (resolve_isSome strOfDatum b _).mpr hr2
    exact hn nr na nb h0 h1 h2

theorem withRAK_gives (hd : s.params.ddrBist = true) {r a : Operand StrNo} {key : Operand Key}
    {k : StrNo → StrNo → Key → State → Result} (he : exec i s = withRAK r a key s k)
    (ht : i.tags = (r.tag, a.tag, key.tag))
    (hs : i.structureNumbers s = [resolve strOfDatum r s.cells.t0, resolve strOfDatum a s.cells.t1])
    (hk : ∀ nr na x, Completes i s (k nr na x s.endWait)) : ExecGives i s := by
  simp only [withRAK, State.whenDdrGood, hd, if_true] at he
  split at he
  · next nr na x hr ha hx =>
    by_cases h0 : nr = 0#3
    · subst h0
      exact .zero (by simp [hs, hr]) (he.trans (requireStr_zero _))
    rw [requireStr_of_ne h0] at he
    by_cases h1 : na = 0#3
    · subst h1
      exact .zero (by simp [hs, ha]) (he.trans (requireStr_zero _))
    rw [requireStr_of_ne h1] at he
    exact .completes (by simp [hs, hr, ha, Ne.symm h0, Ne.symm h1]) (he ▸ hk nr na x)
  · next hn =>
    refine .waits (Bool.eq_false_iff.mpr fun hready => ?_) (by rw [he, ht])
    simp only [Instr.ready, ht, Bool.and_eq_true] at hready
    obtain ⟨⟨hr0, hr1⟩, hr2⟩ := hready
    obtain ⟨nr, h0⟩ := (resolve_isSome strOfDatum r _).mpr hr0
    obtain ⟨na, h1⟩ := (resolve_isSome strOfDatum a _).mpr hr1
    obtain ⟨x, h2⟩ := (resolve_isSome id key _).mpr hr2
    exact hn nr na x h0 h1 h2

/-- What every command but JT gives while the external memory is good. -/
theorem exec_gives (hj : i.isJump = false) (hd : s.params.ddrBist = true) : ExecGives i s := by
  cases i with
  | del q str key =>
    exact withStrKey_gives hd (k := fun n x s => (s.deleteKey q n x).finish) rfl rfl rfl
      fun _ _ => .of_finish _
  | ins q str key value =>
    exact withStrKeyValue_gives hd (k := fun n x v s => (s.insert q n x v).finish) rfl rfl rfl
      fun _ _ _ => .of_finish _
  | min q str =>
    exact withStr_gives hd rfl rfl rfl fun _ hn => .of_extremum (fun _ => List.head?_eq_none_iff.mp) q rfl hn
  | max q str =>
    exact withStr_gives hd rfl rfl rfl fun _ hn => .of_extremum (fun _ => List.getLast?_eq_none_iff.mp) q rfl hn
  | srch q str key =>
    exact withStrKey_gives hd (k := fun n x s => (s.search q n x).finish) rfl rfl rfl
      fun _ _ => .of_finish _
  | sq q str =>
    exact withStr_gives hd (k := fun n s => (s.squeeze q n).finish) rfl rfl rfl
      fun _ _ => .of_finish _
  | cnt q str =>
    exact withStr_gives hd (k := fun n s => (s.count q n).finish) rfl rfl rfl
      fun _ _ => .of_finish _
  | or q r a b =>
    exact withRAB_gives hd (k := fun r a b s => (s.combine s.orFn q r a b).finish) rfl rfl rfl
      fun _ _ _ => .of_finish _
  | and q r a b =>
    exact withRAB_gives hd (k := fun r a b s => (s.combine s.andFn q r a b).finish) rfl rfl rfl
      fun _ _ _ => .of_finish _
  | not q r a b =>
    exact withRAB_gives hd (k := fun r a b s => (s.combine PairMap.diff q r a b).finish) rfl rfl rfl
      fun _ _ _ => .of_finish _
  | lseq q r a key =>
    exact withRAK_gives hd (k := fun r a x s => (s.sliceInto (fun y => y ≤ x) q r a).finish) rfl rfl rfl
      fun _ _ _ => .of_finish _
  | ls q r a key =>
    exact withRAK_gives hd (k := fun r a x s => (s.sliceInto (fun y => y < x) q r a).finish) rfl rfl rfl
      fun _ _ _ => .of_finish _
  | greq q r a key =>
    exact withRAK_gives hd (k := fun r a x s => (s.sliceInto (fun y => x ≤ y) q r a).finish) rfl rfl rfl
      fun _ _ _ => .of_finish _
  | gr q r a key =>
    exact withRAK_gives hd (k := fun r a x s => (s.sliceInto (fun y => x < y) q r a).finish) rfl rfl rfl
      fun _ _ _ => .of_finish _
  | dels q str =>
    exact withStr_gives hd (k := fun n s => (s.deleteStructure q n).finish) rfl rfl rfl
      fun _ _ => .of_finish _
  | next q str key =>
    exact withStrKey_gives hd (k := fun n x s => (s.neighbourOfKey PairMap.above q n x).finish) rfl rfl rfl
      fun _ _ => .of_finish _
  | prev q str key =>
    exact withStrKey_gives hd (k := fun n x s => (s.neighbourOfKey PairMap.below q n x).finish) rfl rfl rfl
      fun _ _ => .of_finish _
  | nsm q str key =>
    exact withStrKey_gives hd (k := fun n x s => (s.neighbour PairMap.below q n x).finish) rfl rfl rfl
      fun _ _ => .of_finish _
  | ngr q str key =>
    exact withStrKey_gives hd (k := fun n x s => (s.neighbour PairMap.above q n x).finish) rfl rfl rfl
      fun _ _ => .of_finish _
  | jt t0 addr => cases hj

/-- While the external memory is not good no command but the JT of the CPU executes (U16, log 27). -/
theorem exec_of_ddrBist_eq_false (hd : s.params.ddrBist = false) (h : i.isJump = false ∨ s.issuer = .misd) :
    exec i s = .refused .ddrBistFailed := by
  have hrefused (k : Result) : s.whenDdrGood k = .refused .ddrBistFailed := if_neg (by simp [hd])
  cases i
  case jt t0 addr =>
    have hi : s.issuer = .misd := h.resolve_left (by simp [Instr.isJump])
    simp only [exec, execJt, hi]
    exact hrefused _
  all_goals exact hrefused _

end Outcomes

/-- Settles O20: with every operand known a command that names structure 0 neither waits nor completes; without good
memory nothing is executed. -/
theorem unusableCommandsAreRefused : Obligations.UnusableCommandsAreRefused := by
  refine ⟨fun i s hd hr h0 => ?_, fun i s hd h => exec_of_ddrBist_eq_false hd h⟩
  cases hj : i.isJump with
  | true =>
    obtain ⟨t0, addr, rfl⟩ := Instr.eq_jt_of_isJump hj
    cases h0
  | false =>
    cases exec_gives hj hd with
    | waits hn => simp [hr] at hn
    | zero _ he => exact he
    | completes hn => exact absurd h0 hn

/-! ### JT -/

/-- A JT of LCM whose branch datum and address are known branches on the datum (R216). -/
theorem exec_jt_eq {s : State} {t0 : Bool} {addr : Operand Nat} {d : Datum} {a : Nat} (hi : s.issuer = .misd)
    (hd : s.params.ddrBist = true) (h0 : resolve id (branchTag t0) s.wait.t0 = some d)
    (ha : resolve (addrOfDatum s.params) addr s.wait.t1 = some a) :
    exec (.jt t0 addr) s = State.branch d a { s with wait := TagWait.idle, fetched := none } := by
  simp only [exec, execJt, hi, withJump, State.whenDdrGood, hd, if_true, State.cells, h0, ha, State.endWait]

/-- Settles O41: the tag bit 1 stands for the datum 1, and the branch is on the datum. -/
theorem jumpFollowsItsTag : Obligations.JumpFollowsItsTag := by
  intro s addr a hi hd ha
  refine ⟨(exec_jt_eq hi hd rfl ha).trans (if_pos rfl), fun d h0 => ?_⟩
  exact exec_jt_eq hi hd (by rw [h0]; rfl) ha

/-- A JT of LCM stops only for a datum other than 0 and 1 (U10). -/
theorem exec_jt_stops {s : State} {t0 : Bool} {addr : Operand Nat} (hi : s.issuer = .misd)
    (hd : s.params.ddrBist = true) :
    (∃ t, exec (.jt t0 addr) s = .next t) ∨
      ∃ d, exec (.jt t0 addr) s = .refused (.jtTagDatum d) ∧ t0 = false ∧ s.wait.t0 = .received d ∧
        d ≠ 0#64 ∧ d ≠ 1#64 := by
  cases hr : (Instr.jt t0 addr).ready s with
  | false =>
    left
    rw [exec_of_not_ready _ s hi hd hr]
    simp only [State.waitTags, hi]
    exact ⟨_, rfl⟩
  | true =>
    simp only [Instr.ready, Instr.tags, State.cells, hi, known_true, Bool.and_true, Bool.and_eq_true] at hr
    obtain ⟨d, h0⟩ := (resolve_isSome id (branchTag t0) s.wait.t0).mpr (by rw [known_branchTag]; exact hr.1)
    obtain ⟨a, ha⟩ := (resolve_isSome (addrOfDatum s.params) addr s.wait.t1).mpr hr.2
    rw [exec_jt_eq hi hd h0 ha]
    unfold State.branch
    split
    · exact .inl ⟨_, rfl⟩
    · next h1 =>
      split
      · exact .inl ⟨_, rfl⟩
      · next hne =>
        right
        cases t0 with
        | true => exact absurd (Option.some.inj h0).symm h1
        | false =>
          cases hw : s.wait.t0 with
          | received d' =>
            rw [hw] at h0
            obtain rfl : d' = d := Option.some.inj h0
            exact ⟨d', rfl, rfl, rfl, hne, h1⟩
          | idle => rw [hw] at h0; cases h0
          | awaited => rw [hw] at h0; cases h0

/-! ### Every command -/

/-- A command that cannot get its operands waits, or is the CPU's (R125, R213). -/
theorem State.waitTags_cases (s : State) (a b c : Bool) :
    (∃ t, s.waitTags a b c = .next t) ∨ (s.issuer = .coprocessor ∧ s.waitTags a b c = .refused .cpuOperandMissing) := by
  unfold State.waitTags
  split
  · exact .inl ⟨_, rfl⟩
  · next hi => exact .inr ⟨hi, rfl⟩

/-- The refusals the spec leaves to a command: U1, U6, U10, U16, and the missing operand of the CPU (log 34). -/
def AllowedStop (i : Instr) (s : State) (r : Refusal) : Prop :=
  (r = .structureZero ∧ some 0#3 ∈ i.structureNumbers s) ∨
  (∃ str n, r = .emptyStructure ∧ i.extremumOf = some str ∧ resolve strOfDatum str s.cells.t0 = some n ∧
    s.present n = true ∧ ∀ k, s.lookup n k = none) ∨
  (∃ addr d, r = .jtTagDatum d ∧ i = .jt false addr ∧ s.issuer = .misd ∧ s.wait.t0 = .received d ∧
    d ≠ 0#64 ∧ d ≠ 1#64) ∨
  (r = .ddrBistFailed ∧ s.params.ddrBist = false) ∨
  (r = .cpuOperandMissing ∧ s.issuer = .coprocessor ∧ i.ready s = false)

/-- A command gives a next state or one of the refusals left to it. -/
theorem exec_stops (i : Instr) (s : State) :
    (∃ t, exec i s = .next t) ∨ ∃ r, exec i s = .refused r ∧ AllowedStop i s r := by
  cases hj : i.isJump with
  | true =>
    obtain ⟨t0, addr, rfl⟩ := Instr.eq_jt_of_isJump hj
    cases hi : s.issuer with
    | coprocessor => exact .inl ⟨s, by simp only [exec, execJt, hi]⟩
    | misd =>
      cases hd : s.params.ddrBist with
      | false => exact .inr ⟨_, exec_of_ddrBist_eq_false hd (.inr hi), .inr (.inr (.inr (.inl ⟨rfl, hd⟩)))⟩
      | true =>
        refine (exec_jt_stops hi hd).imp_right ?_
        rintro ⟨d, he, rfl, hw, h0, h1⟩
        exact ⟨_, he, .inr (.inr (.inl ⟨addr, d, rfl, rfl, hi, hw, h0, h1⟩))⟩
  | false =>
    cases hd : s.params.ddrBist with
    | false => exact .inr ⟨_, exec_of_ddrBist_eq_false hd (.inl hj), .inr (.inr (.inr (.inl ⟨rfl, hd⟩)))⟩
    | true =>
      cases exec_gives hj hd with
      | waits hr he =>
        rw [he]
        refine (s.waitTags_cases _ _ _).imp_right fun ⟨hi, hw⟩ => ?_
        exact ⟨_, hw, .inr (.inr (.inr (.inr ⟨rfl, hi, hr⟩)))⟩
      | zero h0 he => exact .inr ⟨_, he, .inl ⟨rfl, h0⟩⟩
      | completes h0 he =>
        refine he.imp_right fun ⟨o, n, ho, hn, hm, hx⟩ => ?_
        refine ⟨_, hx, .inr (.inl ⟨o, n, rfl, ho, hn, State.present_eq_true_iff.mpr ⟨[], hm⟩, fun k => ?_⟩)⟩
        simp [State.lookup, hm, PairMap.get_nil]

/-- Settles O19: what a command gives is no fault, and a refusal only of those left to it. -/
theorem commandsNeverTrap : Obligations.CommandsNeverTrap := by
  intro i s
  rcases exec_stops i s with ⟨t, ht⟩ | ⟨r, hr, hstop⟩
  · exact ⟨by simp [ht], by simp [ht]⟩
  · refine ⟨by simp [hr], fun r' hr' => ?_⟩
    obtain rfl : r = r' := by simpa [hr] using hr'
    exact hstop

end Sys2Proof.Machine

/-! SRCH, INS, DEL, DELS, PREV, CNT and SQ (spec/40_search_insert_delete.md, spec/41_minmax_neighbours_power.md,
spec/42_setops_slices_squeeze.md R207): what each does after its operands are known, outcome by outcome, then the
statements that rest on it. -/

namespace Sys2Proof

/-! ### The keys of a map -/

/-- The keys of a canonical map are without repeats. -/
theorem PairMap.Sorted.nodup_keys {m : PairMap} (hm : m.Sorted) : (m.map Prod.fst).Nodup :=
  List.pairwise_map.mpr (hm.imp fun {p r} hlt => (BitVec.ne_of_lt hlt : p.1 ≠ r.1))

/-- A canonical map has as many pairs as any list of its keys without repeats. -/
theorem PairMap.Sorted.length_eq_of_keys {m : PairMap} (hm : m.Sorted) {ks : List Key} (hn : ks.Nodup)
    (h : ∀ j, j ∈ ks ↔ (m.get j).isSome = true) : m.length = ks.length := by
  refine le_antisymm ?_ (PairMap.length_le_of_keys hn fun j hj => (h j).mp hj)
  have hsub : m.map Prod.fst ⊆ ks := fun j hj => by
    obtain ⟨p, hp, rfl⟩ := List.mem_map.mp hj
    exact (h p.1).mpr ((PairMap.has_iff_mem p.1).mpr ⟨p, hp, rfl⟩)
  simpa using (hm.nodup_keys.subperm hsub).length_le

end Sys2Proof

namespace Sys2Proof.Machine

/-! ### The commands after operand resolution -/

section Execution

variable {s : State} {str : Operand StrNo} {key : Operand Key} {value : Operand Value} {n : StrNo} {k : Key} {v : Value}

theorem exec_srch_eq (h : StrKeyIs s str key n k) (q : Bool) :
    exec (.srch q str key) s = .next (s.endWait.search q n k).advance :=
  withStrKey_eq h fun n k s => (s.search q n k).finish

theorem exec_ins_eq (h : StrKeyValueIs s str key value n k v) (q : Bool) :
    exec (.ins q str key value) s = .next (s.endWait.insert q n k v).advance :=
  withStrKeyValue_eq h fun n k v s => (s.insert q n k v).finish

theorem exec_del_eq (h : StrKeyIs s str key n k) (q : Bool) :
    exec (.del q str key) s = .next (s.endWait.deleteKey q n k).advance :=
  withStrKey_eq h fun n k s => (s.deleteKey q n k).finish

theorem exec_dels_eq (h : StrIs s str n) (q : Bool) :
    exec (.dels q str) s = .next (s.endWait.deleteStructure q n).advance :=
  withStr_eq h fun n s => (s.deleteStructure q n).finish

theorem exec_sq_eq (h : StrIs s str n) (q : Bool) : exec (.sq q str) s = .next (s.endWait.squeeze q n).advance :=
  withStr_eq h fun n s => (s.squeeze q n).finish

theorem exec_cnt_eq (h : StrIs s str n) (q : Bool) : exec (.cnt q str) s = .next (s.endWait.count q n).advance :=
  withStr_eq h fun n s => (s.count q n).finish

end Execution

/-! ### Frames and results of a command that stores a structure -/

/-- A command that changes no structure changes none but `n`. -/
theorem QueryFrame.updateFrame {s t : State} (h : QueryFrame s t) (n : StrNo) : UpdateFrame n s t :=
  ⟨h.untouched, h.advanced, fun n' _ => h.structures n', h.power⟩

section Store

variable {s u : State} {n : StrNo} (hu : u = s.endWait ∨ u = s.endWait.popInsAnswer) (o : Option PairMap) (q v : Bool)
  (c : Cause) (k : Option Key) (x : Option Value)

include hu in
/-- Storing a structure touches nothing else, before or after the oracle has answered. -/
theorem Untouched.of_setStructure : Untouched s.endWait (u.setStructure n o) := by
  rcases hu with rfl | rfl
  · exact State.setStructure_untouched _ n o
  · exact (State.popInsAnswer_untouched _).trans (State.setStructure_untouched _ n o)

include hu in
theorem UpdateFrame.of_setStructure : UpdateFrame n s ((u.setStructure n o).deliver q v c k x).advance := by
  have hsame : SameStructuresBut n s.endWait (u.setStructure n o) := fun n' hn => by
    rw [State.structure?_setStructure_other u hn]
    rcases hu with rfl | rfl <;> simp
  refine .of_deliver (.of_setStructure hu o) ?_ ?_ hsame ?_ q v c k x
  all_goals rcases hu with rfl | rfl <;> simp

include hu in
theorem Delivered.of_setStructure :
    Delivered q v c (k.getD (Config.anyKey s.draws)) (x.getD (Config.anyValue s.draws)) s
      ((u.setStructure n o).deliver q v c k x).advance := by
  refine .of_update (.of_setStructure hu o) ?_ ?_ ?_ q v c k x
  all_goals rcases hu with rfl | rfl <;> simp

theorem State.structure?_of_setStructure (hn : n ≠ 0#3) :
    ((u.setStructure n o).deliver q v c k x).advance.structure? n = o := by
  simp [hn]

theorem State.lookup_of_setStructure (hn : n ≠ 0#3) (j : Key) :
    ((u.setStructure n o).deliver q v c k x).advance.lookup n j = o.bind fun m => m.get j := by
  simp [State.lookup, hn]

end Store

/-! ### SRCH -/

section Search

variable {s : State} {n : StrNo} {k : Key} (q : Bool)

theorem State.search_of_missing (h : s.present n = false) :
    s.endWait.search q n k = s.endWait.raiseError q .eNoStruct := by
  simp only [State.search, State.structure?_endWait, State.present_eq_false_iff.mp h]

theorem State.search_of_lookup_eq_none (hp : s.present n = true) (h : s.lookup n k = none) :
    s.endWait.search q n k = s.endWait.raiseError q .eNoKey := by
  obtain ⟨m, hm⟩ := State.present_eq_true_iff.mp hp
  have hget : m.get k = none := by simpa [State.lookup, hm] using h
  simp only [State.search, State.structure?_endWait, hm, hget]

theorem State.search_of_lookup_eq_some {v : Value} (h : s.lookup n k = some v) :
    s.endWait.search q n k = s.endWait.deliver q true .ok (some k) (some v) := by
  obtain ⟨m, hm, hget⟩ := State.structure_of_lookup h
  simp only [State.search, State.structure?_endWait, hm, hget]

/-- Every outcome of SRCH delivers one result and changes nothing else. -/
theorem QueryFrame.of_search : QueryFrame s (s.endWait.search q n k).advance := by
  unfold State.search
  split
  · exact .of_raiseError s q _
  · split
    · exact .of_raiseError s q _
    · exact .of_deliver s q _ _ _ _

end Search

/-- Settles O22, outcome by outcome of the search. -/
theorem searchFindsKey : Obligations.SearchFindsKey := by
  intro s q str key n k hs
  refine ⟨_, exec_srch_eq hs q, .of_search q, fun hp => ?_, fun hp hk => ?_, fun v hv => ?_⟩
  · rw [State.search_of_missing q hp]
    exact .of_raiseError s q _
  · rw [State.search_of_lookup_eq_none q hp hk]
    exact .of_raiseError s q _
  · rw [State.search_of_lookup_eq_some q hv]
    exact .of_query s q true .ok (some k) (some v)

/-! ### INS -/

section Insert

variable {s : State} {n : StrNo} {k : Key} (q : Bool) (v : Value)

/-- A held key gets the new value (R153). -/
theorem State.insert_of_lookup_eq_some {old : Value} (h : s.lookup n k = some old) :
    s.endWait.insert q n k v =
      (s.endWait.setStructure n (some (((s.structure? n).getD []).put k v))).deliver q true .okUpdated none none := by
  rw [State.lookup_eq] at h
  simp only [State.insert, State.structure?_endWait, PairMap.has, h, Option.isSome_some, if_true]

/-- A key that is not held needs space (R153). -/
theorem State.insert_of_lookup_eq_none (h : s.lookup n k = none) :
    s.endWait.insert q n k v = s.endWait.insertNew q n ((s.structure? n).getD []) k v := by
  simp only [State.insert, State.structure?_endWait, State.not_has_of_lookup h, Bool.false_eq_true, if_false]

variable {m : PairMap}

/-- With room the oracle's `ok` stands (R153). -/
theorem State.insAnswer_eq_ok (h : s.insAnswers.headD (Config.insSpace s.draws) = .ok)
    (hl : m.length < Config.strVal) : s.endWait.insAnswer m = .ok := by
  simp only [State.insAnswer, State.endWait_insAnswers, State.endWait_draws, h]
  exact if_neg fun hc => absurd hc.1 (Nat.not_le.mpr hl)

theorem State.insAnswer_eq_evict (h : s.insAnswers.headD (Config.insSpace s.draws) = .evict) :
    s.endWait.insAnswer m = .evict := by
  simp only [State.insAnswer, State.endWait_insAnswers, State.endWait_draws, h]
  exact if_neg nofun

/-- There is no space when the oracle says so or the structure is full (R153, R156). -/
theorem State.insAnswer_eq_fail (h : s.insAnswers.headD (Config.insSpace s.draws) = .fail ∨
      (Config.strVal ≤ m.length ∧ s.insAnswers.headD (Config.insSpace s.draws) = .ok)) :
    s.endWait.insAnswer m = .fail := by
  simp only [State.insAnswer, State.endWait_insAnswers, State.endWait_draws]
  rcases h with h | ⟨hl, h⟩
  · rw [h]
    exact if_neg nofun
  · rw [h]
    exact if_pos ⟨hl, rfl⟩

theorem State.insertNew_of_ok (h : s.endWait.insAnswer m = .ok) :
    s.endWait.insertNew q n m k v =
      (s.endWait.popInsAnswer.setStructure n (some (m.put k v))).deliver q true .okInserted none none := by
  simp only [State.insertNew, h]

theorem State.insertNew_of_evict {kl : Key} {vl : Value} (h : s.endWait.insAnswer m = .evict)
    (hg : PairMap.greatest (m.put k v) = some (kl, vl)) :
    s.endWait.insertNew q n m k v =
      (s.endWait.popInsAnswer.setStructure n (contentOf s.params (PairMap.erase (m.put k v) kl))).deliver q false
        .eEvicted (some kl) (some vl) := by
  simp only [State.insertNew, h, State.insertEvicting, hg, State.storeMap, State.popInsAnswer_params,
    State.endWait_params]

theorem State.insertNew_of_fail (h : s.endWait.insAnswer m = .fail) :
    s.endWait.insertNew q n m k v = s.endWait.popInsAnswer.raiseError q .eNoSpace := by
  simp only [State.insertNew, h]

end Insert

/-- Reading a key of a structure after a pair is put into its map. -/
theorem State.get_put_eq (s : State) (n : StrNo) (k : Key) (v : Value) (j : Key) :
    PairMap.get (((s.structure? n).getD []).put k v) j = if j = k then some v else s.lookup n j := by
  rw [PairMap.get_put, State.lookup_eq, if_congr eq_comm rfl rfl]

/-- Settles O23: the held key's pair is put into the map, and no oracle is asked. -/
theorem insertUpdatesHeldKey : Obligations.InsertUpdatesHeldKey := by
  intro s q str key value n k v old hs hold
  obtain ⟨⟨⟨-, -, hn⟩, -⟩, -⟩ := id hs
  refine ⟨_, exec_ins_eq hs q, ?_⟩
  rw [State.insert_of_lookup_eq_some q v hold]
  refine ⟨.of_setStructure (.inl rfl) _ q true .okUpdated none none, ⟨by simp, by simp⟩,
    ⟨_, _, .of_setStructure (.inl rfl) _ q true .okUpdated none none⟩, ?_, fun j => ?_⟩
  · exact State.present_eq_true_iff.mpr ⟨_, State.structure?_of_setStructure _ q true .okUpdated none none hn⟩
  · rw [State.lookup_of_setStructure _ _ _ _ _ _ hn]
    exact s.get_put_eq n k v j

/-- Settles O24: with room the pair is put into the map, and the oracle's answer is used up. -/
theorem insertAddsNewKey : Obligations.InsertAddsNewKey := by
  intro s q str key value n k v hs hnone hans hsize
  obtain ⟨⟨⟨-, -, hn⟩, -⟩, -⟩ := id hs
  refine ⟨_, exec_ins_eq hs q, ?_⟩
  rw [State.insert_of_lookup_eq_none q v hnone, State.insertNew_of_ok q v (State.insAnswer_eq_ok hans hsize)]
  refine ⟨.of_setStructure (.inr rfl) _ q true .okInserted none none, by simp, by simp,
    ⟨_, _, .of_setStructure (.inr rfl) _ q true .okInserted none none⟩, ?_, fun j => ?_⟩
  · exact State.present_eq_true_iff.mpr ⟨_, State.structure?_of_setStructure _ q true .okInserted none none hn⟩
  · rw [State.lookup_of_setStructure _ _ _ _ _ _ hn]
    exact s.get_put_eq n k v j

/-- The greatest pair of a map into which a pair was put: that pair or one of the map, and none is above it. -/
theorem PairMap.greatest_put_spec {m : PairMap} (hm : m.Sorted) {k kl : Key} {v vl : Value}
    (hg : PairMap.greatest (m.put k v) = some (kl, vl)) :
    (if kl = k then vl = v else m.get kl = some vl) ∧ k ≤ kl ∧ ∀ j x, m.get j = some x → j ≤ kl := by
  have hput := PairMap.put_sorted hm k v
  obtain ⟨hmem, hmax⟩ := PairMap.greatest_spec hput hg
  have hle {j : Key} {x : Value} (hj : PairMap.get (m.put k v) j = some x) : j ≤ kl :=
    hmax (j, x) ((PairMap.get_eq_some_iff hput j x).mp hj)
  have hkl := (PairMap.get_eq_some_iff hput kl vl).mpr hmem
  rw [PairMap.get_put] at hkl
  refine ⟨?_, hle (x := v) (by rw [PairMap.get_put, if_pos rfl]), fun j x hj => ?_⟩
  · by_cases h : kl = k
    · rw [if_pos h.symm] at hkl
      rw [if_pos h, Option.some.inj hkl]
    · rw [if_neg (Ne.symm h)] at hkl
      rwa [if_neg h]
  · by_cases h : k = j
    · exact hle (x := v) (by rw [PairMap.get_put, if_pos h])
    · exact hle (x := x) (by rw [PairMap.get_put, if_neg h, hj])

/-- Settles O25: the new pair is put into the map, and the pair of the greatest key then leaves it. -/
theorem insertEvictsGreatestKey : Obligations.InsertEvictsGreatestKey := by
  intro s q str key value n k v hok hs hnone hans
  obtain ⟨⟨⟨-, -, hn⟩, -⟩, -⟩ := id hs
  obtain ⟨⟨kl, vl⟩, hg⟩ := PairMap.greatest_put_isSome ((s.structure? n).getD []) k v
  obtain ⟨hpair, hle, hmax⟩ := PairMap.greatest_put_spec (hok.map n).1 hg
  refine ⟨_, kl, vl, exec_ins_eq hs q, ?_⟩
  rw [State.insert_of_lookup_eq_none q v hnone, State.insertNew_of_evict q v (State.insAnswer_eq_evict hans) hg]
  refine ⟨.of_setStructure (.inr rfl) _ q false .eEvicted _ _, by simp, by simp,
    .of_setStructure (.inr rfl) _ q false .eEvicted (some kl) (some vl), ?_, hle, fun j x hj => ?_, fun j => ?_, ?_⟩
  · rwa [State.lookup_eq]
  · exact hmax j x (by rwa [State.lookup_eq] at hj)
  · rw [State.lookup_of_setStructure _ _ _ _ _ _ hn, contentOf_get, PairMap.get_erase, s.get_put_eq,
      if_congr eq_comm rfl rfl]
  · refine existsIfHolding_of_stored (m := PairMap.erase (((s.structure? n).getD []).put k v) kl) ?_
    rw [State.structure?_of_setStructure _ _ _ _ _ _ hn]
    simp

/-- Settles O26: without space only the oracle's answer is used up and the failure delivered. -/
theorem insertFailsWithoutSpace : Obligations.InsertFailsWithoutSpace := by
  intro s q str key value n k v hs hnone hans
  refine ⟨_, exec_ins_eq hs q, ?_⟩
  rw [State.insert_of_lookup_eq_none q v hnone, State.insertNew_of_fail q v (State.insAnswer_eq_fail hans)]
  have hu : Untouched s.endWait s.endWait.popInsAnswer := State.popInsAnswer_untouched _
  exact ⟨.of_deliver hu (by simp) (by simp) (fun n' _ => by simp) (by simp) q false .eNoSpace none none,
    fun n' => by simp, by simp, by simp,
    ⟨_, _, .of_update hu (by simp) (by simp) (by simp) q false .eNoSpace none none⟩⟩

/-! ### DEL and DELS -/

section Delete

variable {s : State} {n : StrNo} {k : Key} (q : Bool)

theorem State.deleteKey_of_missing (h : s.present n = false) :
    s.endWait.deleteKey q n k = s.endWait.raiseError q .eNoStruct := by
  simp only [State.deleteKey, State.structure?_endWait, State.present_eq_false_iff.mp h]

theorem State.deleteKey_of_lookup_eq_none (hp : s.present n = true) (h : s.lookup n k = none) :
    s.endWait.deleteKey q n k = s.endWait.raiseError q .eNoKey := by
  obtain ⟨m, hm⟩ := State.present_eq_true_iff.mp hp
  have hget : m.get k = none := by simpa [State.lookup, hm] using h
  simp only [State.deleteKey, State.structure?_endWait, hm, hget]

theorem State.deleteKey_of_get_eq_some {m : PairMap} {v : Value} (hm : s.structure? n = some m)
    (hget : m.get k = some v) :
    s.endWait.deleteKey q n k =
      (s.endWait.setStructure n (contentOf s.params (m.erase k))).deliver q true .ok (some k) (some v) := by
  simp only [State.deleteKey, State.structure?_endWait, hm, hget, State.storeMap, State.endWait_params]

/-- Every outcome of DEL delivers one result and changes no other structure and no oracle. -/
theorem UpdateFrame.of_deleteKey :
    UpdateFrame n s (s.endWait.deleteKey q n k).advance ∧ SameOracles s (s.endWait.deleteKey q n k).advance := by
  unfold State.deleteKey
  split
  · exact ⟨(QueryFrame.of_raiseError s q _).updateFrame n, (QueryFrame.of_raiseError s q _).oracles⟩
  · split
    · exact ⟨(QueryFrame.of_raiseError s q _).updateFrame n, (QueryFrame.of_raiseError s q _).oracles⟩
    · exact ⟨.of_setStructure (.inl rfl) _ q _ _ _ _, by simp, by simp⟩

theorem State.deleteStructure_of_missing (h : s.present n = false) :
    s.endWait.deleteStructure q n = s.endWait.raiseError q .eNoStruct := by
  simp only [State.deleteStructure, State.structure?_endWait, State.present_eq_false_iff.mp h]

theorem State.deleteStructure_of_present (h : s.present n = true) :
    s.endWait.deleteStructure q n = (s.endWait.setStructure n none).deliver q true .ok none none := by
  obtain ⟨m, hm⟩ := State.present_eq_true_iff.mp h
  simp only [State.deleteStructure, State.structure?_endWait, hm]

end Delete

/-- Settles O27, outcome by outcome; the map without the key is stored as R24 has it. -/
theorem deleteRemovesKey : Obligations.DeleteRemovesKey := by
  intro s q str key n k hs
  obtain ⟨⟨-, -, hn⟩, -⟩ := id hs
  obtain ⟨hframe, horacles⟩ := UpdateFrame.of_deleteKey (s := s) (n := n) (k := k) q
  refine ⟨_, exec_del_eq hs q, hframe, horacles, fun hp => ?_, fun hp hk => ?_, fun v hv => ?_⟩
  · rw [State.deleteKey_of_missing q hp]
    exact ⟨.of_raiseError s q _, (QueryFrame.of_raiseError s q _).structures⟩
  · rw [State.deleteKey_of_lookup_eq_none q hp hk]
    exact ⟨.of_raiseError s q _, (QueryFrame.of_raiseError s q _).structures⟩
  · obtain ⟨m, hm, hget⟩ := State.structure_of_lookup hv
    rw [State.deleteKey_of_get_eq_some q hm hget]
    refine ⟨.of_setStructure (.inl rfl) _ q true .ok (some k) (some v), fun j => ?_, ?_⟩
    · rw [State.lookup_of_setStructure _ _ _ _ _ _ hn, contentOf_get, PairMap.get_erase, if_congr eq_comm rfl rfl,
        State.lookup, hm, Option.bind_some]
    · refine existsIfHolding_of_stored (m := m.erase k) ?_
      rw [State.structure?_of_setStructure _ _ _ _ _ _ hn]
      simp

/-- Settles O28: an existing structure is unset, a missing one stays missing. -/
theorem deleteStructureRemovesIt : Obligations.DeleteStructureRemovesIt := by
  intro s q str n hs
  obtain ⟨-, -, hn⟩ := id hs
  refine ⟨_, exec_dels_eq hs q, ?_⟩
  cases hp : s.present n with
  | false =>
    rw [State.deleteStructure_of_missing q hp]
    have hq := QueryFrame.of_raiseError s q .eNoStruct
    refine ⟨hq.updateFrame n, hq.oracles, ?_, fun _ => .of_raiseError s q _, nofun⟩
    rw [State.present_eq_false_iff, hq.structures n]
    exact State.present_eq_false_iff.mp hp
  | true =>
    rw [State.deleteStructure_of_present q hp]
    refine ⟨.of_setStructure (.inl rfl) none q true .ok none none, ⟨by simp, by simp⟩, ?_, nofun,
      fun _ => ⟨_, _, .of_setStructure (.inl rfl) none q true .ok none none⟩⟩
    exact State.present_eq_false_iff.mpr (State.structure?_of_setStructure _ _ _ _ _ _ hn)

/-! ### PREV -/

/-- Settles O31: PREV fails without its structure or its base key, and on a held key it does what NSM does. -/
theorem previousFollowsItsRule : Obligations.PreviousFollowsItsRule := by
  intro s q str key n k hok hs
  refine ⟨_, exec_prev_eq hs q, .of_neighbourOfKey _ q, fun hp => ?_, fun hp hk => ?_, fun x hx hnone => ?_,
    fun x k' v hx hbelow => ?_⟩
  · rw [State.neighbourOfKey_of_missing _ q hp]
    exact .of_raiseError s q _
  · rw [State.neighbourOfKey_of_lookup_eq_none _ q hp hk]
    exact .of_raiseError s q _
  · rw [State.neighbourOfKey_of_lookup_eq_some _ q hx]
    obtain ⟨m, hm, -⟩ := State.structure_of_lookup hx
    exact hnone.failed q hok (State.present_eq_true_iff.mpr ⟨m, hm⟩)
  · rw [State.neighbourOfKey_of_lookup_eq_some _ q hx]
    exact hbelow.delivered q hok

/-! ### SQ -/

section Squeeze

variable {s : State} {n : StrNo} (q : Bool)

theorem State.squeeze_of_missing (h : s.present n = false) :
    s.endWait.squeeze q n = s.endWait.raiseError q .eNoStruct := by
  simp only [State.squeeze, State.structure?_endWait, State.present_eq_false_iff.mp h]

theorem State.squeeze_of_present (h : s.present n = true) :
    s.endWait.squeeze q n = s.endWait.deliver q true .ok none none := by
  obtain ⟨m, hm⟩ := State.present_eq_true_iff.mp h
  simp only [State.squeeze, State.structure?_endWait, hm]

end Squeeze

/-- Settles O40, for a missing and for an existing structure. -/
theorem squeezeReportsExistence : Obligations.SqueezeReportsExistence := by
  intro s q str n hs
  refine ⟨_, exec_sq_eq hs q, ?_⟩
  cases hp : s.present n with
  | false =>
    rw [State.squeeze_of_missing q hp]
    exact ⟨.of_raiseError s q _, fun _ => .of_raiseError s q _, nofun⟩
  | true =>
    rw [State.squeeze_of_present q hp]
    exact ⟨.of_deliver s q _ _ _ _, nofun, fun _ => ⟨_, _, .of_query s q true .ok none none⟩⟩

/-! ### CNT -/

section Count

variable {s : State} {n : StrNo} (q : Bool)

theorem State.count_of_missing (h : s.present n = false) :
    s.endWait.count q n = (s.endWait.setPower 0).deliver q false .eNoStruct none (some 0) := by
  simp only [State.count, State.structure?_endWait, State.present_eq_false_iff.mp h]

theorem State.count_of_structure {m : PairMap} (h : s.structure? n = some m) :
    s.endWait.count q n =
      (s.endWait.setPower m.length).deliver q true .ok none (some (BitVec.ofNat 64 m.length)) := by
  simp only [State.count, State.structure?_endWait, h]

/-- What CNT delivers after POWER is written. -/
theorem Delivered.of_setPower (s : State) (a : Nat) (q v : Bool) (c : Cause) (k : Option Key) (x : Option Value) :
    Delivered q v c (k.getD (Config.anyKey s.draws)) (x.getD (Config.anyValue s.draws)) s
      ((s.endWait.setPower a).deliver q v c k x).advance :=
  .of_update (State.setPower_untouched _ _) (by simp) (by simp) (by simp) q v c k x

/-- The POWER that CNT leaves. -/
theorem State.power_of_setPower (s : State) (a : Nat) (q v : Bool) (c : Cause) (k : Option Key) (x : Option Value) :
    ((s.endWait.setPower a).deliver q v c k x).advance.last.power = BitVec.ofNat 32 a := by
  simp [State.setPower]

/-- Every outcome of CNT changes nothing but LAST, S2C and the flags of a delivery. -/
theorem State.count_frame (s : State) (n : StrNo) (q : Bool) :
    Untouched s (s.endWait.count q n).advance ∧ Advanced s (s.endWait.count q n).advance ∧
      SameStructures s (s.endWait.count q n).advance ∧ SameOracles s (s.endWait.count q n).advance := by
  have hframe (a : Nat) (v : Bool) (c : Cause) (k : Option Key) (x : Option Value) :
      let t := ((s.endWait.setPower a).deliver q v c k x).advance
      Untouched s t ∧ Advanced s t ∧ SameStructures s t ∧ SameOracles s t :=
    ⟨s.endWait_untouched.trans ((State.setPower_untouched _ _).trans
        ((State.deliver_untouched _ q v c k x).trans (State.advance_untouched _))),
      State.advanced_of (by simp) (by simp) (by simp), fun n => by simp, by simp, by simp⟩
  unfold State.count
  split
  · exact hframe _ _ _ _ _
  · exact hframe _ _ _ _ _

end Count

/-- Settles O33: the number of pairs of a canonical map is that of its keys, and STR_VAL keeps it below 2^32. -/
theorem countReturnsCardinality : Obligations.CountReturnsCardinality := by
  intro s q str n hok hs
  obtain ⟨hunt, hadv, hsame, horacles⟩ := s.count_frame n q
  refine ⟨_, exec_cnt_eq hs q, hunt, hadv, hsame, horacles, fun hp => ?_, fun ks hp hnodup hks => ?_⟩
  · rw [State.count_of_missing q hp]
    exact ⟨s.power_of_setPower 0 q false .eNoStruct none (some 0), _, .of_setPower s 0 q false .eNoStruct none (some 0)⟩
  · obtain ⟨m, hm⟩ := State.present_eq_true_iff.mp hp
    obtain ⟨hsorted, hle, -⟩ := hok n m hm
    have hlen : m.length = ks.length :=
      hsorted.length_eq_of_keys hnodup fun j => by simpa [State.lookup, hm] using hks j
    rw [State.count_of_structure q hm, State.power_of_setPower, hlen]
    rw [hlen] at hle
    have hlt : ks.length < 2 ^ 32 := by
      rw [Config.strVal_eq] at hle
      omega
    refine ⟨hle, ?_, _, _, .of_setPower s _ q true .ok none (some (BitVec.ofNat 64 ks.length)), ?_⟩
    · rw [BitVec.toNat_ofNat, Nat.mod_eq_of_lt hlt]
    · rw [Option.getD_some, BitVec.toNat_ofNat, Nat.mod_eq_of_lt (by omega)]

end Sys2Proof.Machine

/-! The set operations and slices (spec/42_setops_slices_squeeze.md R191 to R203): the set functions pointwise, the
commands after their operands are known, then the statements that rest on them. -/

namespace Sys2Proof.Machine

/-! ### The set functions, key by key (R191) -/

section Pointwise

variable {ma mb : PairMap} (keepsA : Key → Bool) (j : Key)

theorem unionAt_get_union (ha : ma.Sorted) (hb : mb.Sorted) :
    UnionAt (ma.get j) (mb.get j) ((PairMap.union keepsA ma mb).get j) := by
  rw [PairMap.get_union ha hb]
  unfold UnionAt
  cases ma.get j with
  | none => rfl
  | some v =>
    cases mb.get j with
    | none => rfl
    | some w => cases keepsA j <;> simp

theorem interAt_get_inter : InterAt (ma.get j) (mb.get j) ((PairMap.inter keepsA ma mb).get j) := by
  rw [PairMap.get_inter]
  unfold InterAt
  cases ma.get j with
  | none => rfl
  | some v =>
    cases mb.get j with
    | none => rfl
    | some w => cases keepsA j <;> simp

theorem diffAt_get_diff : DiffAt (ma.get j) (mb.get j) ((ma.diff mb).get j) := by
  rw [PairMap.get_diff]
  unfold DiffAt PairMap.has
  cases mb.get j <;> rfl

/-- UNION holds every key of a source (R191). -/
theorem isSome_get_union (ha : ma.Sorted) (hb : mb.Sorted) (h : (ma.get j).isSome ∨ (mb.get j).isSome) :
    ((PairMap.union keepsA ma mb).get j).isSome := by
  rw [PairMap.get_union ha hb]
  cases hv : ma.get j <;> cases hw : mb.get j <;> simp_all

end Pointwise

/-! ### The commands after operand resolution -/

/-- The set function of a set command (R193 to R196). -/
def SetOp.fn (op : SetOp) (s : State) : PairMap → PairMap → PairMap :=
  match op with
  | .and => s.andFn
  | .or => s.orFn
  | .not => PairMap.diff

/-- The set function of the commands that unite is UNION (R193, D11). -/
theorem SetOp.fn_of_unites {op : SetOp} {s : State} (h : op.unites s.params.pairing = true) :
    SetOp.fn op s = s.unionFn := by
  cases op with
  | and =>
    cases hp : s.params.pairing with
    | asWritten => simp only [SetOp.fn, State.andFn, hp]
    | byName => simp [hp, SetOp.unites] at h
  | or =>
    cases hp : s.params.pairing with
    | asWritten => simp [hp, SetOp.unites] at h
    | byName => simp only [SetOp.fn, State.orFn, hp]
  | not => simp [SetOp.unites] at h

theorem exec_setOp_eq {s : State} {r a b : Operand StrNo} {nr na nb : StrNo} (h : RABIs s r a b nr na nb) (op : SetOp)
    (q : Bool) : exec (op.instr q r a b) s = .next (s.endWait.combine (SetOp.fn op s) q nr na nb).advance := by
  obtain ⟨hand, hor⟩ := s.setFn_endWait
  cases op with
  | and =>
    simp only [SetOp.fn, ← hand]
    exact withRAB_eq h fun r a b s => (s.combine s.andFn q r a b).finish
  | or =>
    simp only [SetOp.fn, ← hor]
    exact withRAB_eq h fun r a b s => (s.combine s.orFn q r a b).finish
  | not => exact withRAB_eq h fun r a b s => (s.combine PairMap.diff q r a b).finish

theorem exec_slice_eq {s : State} {r a : Operand StrNo} {key : Operand Key} {nr na : StrNo} {k : Key}
    (h : RAKIs s r a key nr na k) (op : Slice) (q : Bool) :
    exec (op.instr q r a key) s = .next (s.endWait.sliceInto (fun x => op.selects x k) q nr na).advance := by
  cases op with
  | ls => exact withRAK_eq h fun r a k s => (s.sliceInto (fun x => x < k) q r a).finish
  | lseq => exact withRAK_eq h fun r a k s => (s.sliceInto (fun x => x ≤ k) q r a).finish
  | gr => exact withRAK_eq h fun r a k s => (s.sliceInto (fun x => k < x) q r a).finish
  | greq => exact withRAK_eq h fun r a k s => (s.sliceInto (fun x => k ≤ x) q r a).finish

/-! ### Results that are built -/

/-- What a set operation leaves when its structures are as R192 requires and there is space. -/
theorem State.combine_stored {s : State} {nr na nb : StrNo} (q : Bool) (f : PairMap → PairMap → PairMap)
    (hn : nr ≠ 0#3) (hr : s.present nr = false) (ha : s.present na = true) (hb : s.present nb = true)
    (hans : s.setopAnswers.headD (Config.setopSpace s.draws) = .ok)
    (hl : (f ((s.structure? na).getD []) ((s.structure? nb).getD [])).length ≤ Config.strVal) :
    let t := (s.endWait.combine f q nr na nb).advance
    UpdateFrame nr s t ∧ t.insAnswers = s.insAnswers ∧ t.setopAnswers = s.setopAnswers.tail ∧ Succeeded q .ok s t ∧
      ExistsIfHolding nr t ∧
      ∀ j, t.lookup nr j = (f ((s.structure? na).getD []) ((s.structure? nb).getD [])).get j := by
  rw [State.combine_of_present hr ha hb]
  exact State.storeResult_stored hn q _ hans hl

/-- AND is UNION or INTER, by the pairing (R193, R194). -/
theorem State.andFn_spec (s : State) {ma mb : PairMap} (ha : ma.Sorted) (hb : mb.Sorted) (j : Key) :
    match s.params.pairing with
    | .asWritten => UnionAt (ma.get j) (mb.get j) ((s.andFn ma mb).get j)
    | .byName => InterAt (ma.get j) (mb.get j) ((s.andFn ma mb).get j) := by
  unfold State.andFn
  cases s.params.pairing with
  | asWritten => exact unionAt_get_union _ j ha hb
  | byName => exact interAt_get_inter _ j

/-- OR is INTER or UNION, by the pairing (R193, R195). -/
theorem State.orFn_spec (s : State) {ma mb : PairMap} (ha : ma.Sorted) (hb : mb.Sorted) (j : Key) :
    match s.params.pairing with
    | .asWritten => InterAt (ma.get j) (mb.get j) ((s.orFn ma mb).get j)
    | .byName => UnionAt (ma.get j) (mb.get j) ((s.orFn ma mb).get j) := by
  unfold State.orFn
  cases s.params.pairing with
  | asWritten => exact interAt_get_inter _ j
  | byName => exact unionAt_get_union _ j ha hb

/-- Settles O34: the built map is the union or the intersection, by the pairing. -/
theorem andBuildsResult : Obligations.AndBuildsResult := by
  intro s q r a b nr na nb hok hs hr ha hb hans hl
  obtain ⟨⟨-, -, hn⟩, -⟩ := id hs
  obtain ⟨hframe, hins, hsetop, hsucc, hexists, hget⟩ := State.combine_stored q s.andFn hn hr ha hb hans hl
  refine ⟨_, exec_setOp_eq hs .and q, hframe, hins, hsetop, hsucc, hexists, fun j => ?_⟩
  have hspec := s.andFn_spec (hok.map na).1 (hok.map nb).1 j
  rwa [← hget j, ← s.lookup_eq, ← s.lookup_eq] at hspec

/-- Settles O35: the built map is the intersection or the union, by the pairing. -/
theorem orBuildsResult : Obligations.OrBuildsResult := by
  intro s q r a b nr na nb hok hs hr ha hb hans hl
  obtain ⟨⟨-, -, hn⟩, -⟩ := id hs
  obtain ⟨hframe, hins, hsetop, hsucc, hexists, hget⟩ := State.combine_stored q s.orFn hn hr ha hb hans hl
  refine ⟨_, exec_setOp_eq hs .or q, hframe, hins, hsetop, hsucc, hexists, fun j => ?_⟩
  have hspec := s.orFn_spec (hok.map na).1 (hok.map nb).1 j
  rwa [← hget j, ← s.lookup_eq, ← s.lookup_eq] at hspec

/-- Settles O36: the difference is no larger than A, so there is space for it. -/
theorem notBuildsDifference : Obligations.NotBuildsDifference := by
  intro s q r a b nr na nb hok hs hr ha hb hans
  have hl : (PairMap.diff ((s.structure? na).getD []) ((s.structure? nb).getD [])).length ≤ Config.strVal :=
    (List.length_filter_le _ _).trans (hok.map na).2
  obtain ⟨⟨-, -, hn⟩, -⟩ := id hs
  obtain ⟨hframe, hins, hsetop, hsucc, hexists, hget⟩ := State.combine_stored q PairMap.diff hn hr ha hb hans hl
  refine ⟨_, exec_setOp_eq hs .not q, hframe, hins, hsetop, hsucc, hexists, fun j => ?_⟩
  have hspec := diffAt_get_diff (ma := (s.structure? na).getD []) (mb := (s.structure? nb).getD []) j
  rwa [← hget j, ← s.lookup_eq, ← s.lookup_eq] at hspec

/-- Settles O38: the selected pairs are no more than A's, so there is space for them. -/
theorem slicesCopySelectedPairs : Obligations.SlicesCopySelectedPairs := by
  intro s op q r a key nr na k hok hs hr ha hans
  have hl : (PairMap.slice ((s.structure? na).getD []) fun x => op.selects x k).length ≤ Config.strVal :=
    (List.length_filter_le _ _).trans (hok.map na).2
  refine ⟨_, exec_slice_eq hs op q, ?_⟩
  rw [State.sliceInto_of_present hr ha]
  obtain ⟨⟨-, -, hn⟩, -⟩ := id hs
  obtain ⟨hframe, hins, hsetop, hsucc, hexists, hget⟩ := State.storeResult_stored hn q _ hans hl
  refine ⟨hframe, hins, hsetop, hsucc, hexists, fun j => ?_⟩
  rw [hget j, PairMap.get_slice, s.lookup_eq]

/-! ### Errors (R192, R199, R263) -/

/-- When some cause applies, one that applies is reported (D43). -/
theorem State.buildError_of_cause (s : State) {rExists srcMissing : Bool}
    (h : rExists = true ∨ srcMissing = true) :
    ∃ c, s.buildError rExists srcMissing = some c ∧
      ((rExists = true ∧ c = .eRExists) ∨ (srcMissing = true ∧ c = .eNoStruct)) := by
  cases hc : s.buildError rExists srcMissing with
  | none =>
    obtain ⟨rfl, rfl⟩ := State.buildError_eq_none.mp hc
    simp at h
  | some c => exact ⟨c, rfl, State.buildError_cause hc⟩

/-- The end of the wait creates and deletes no structure. -/
theorem State.present_endWait (s : State) (n : StrNo) : s.endWait.present n = s.present n := by
  simp [State.present]

/-- Settles O37: the cause is chosen before any content is computed, and reported alone. -/
theorem buildCommandsReportErrors : Obligations.BuildCommandsReportErrors := by
  refine ⟨fun s op q r a b nr na nb hs h => ⟨_, exec_setOp_eq hs op q, ?_⟩,
    fun s op q r a key nr na k hs h => ⟨_, exec_slice_eq hs op q, ?_⟩⟩
  · obtain ⟨c, hc, hwhy⟩ := s.endWait.buildError_of_cause (rExists := s.present nr)
      (srcMissing := !s.present na || !s.present nb) (by simpa using h)
    simp only [State.combine, State.present_endWait, hc]
    refine ⟨.of_raiseError s q c, ?_⟩
    rcases hwhy with ⟨hr, rfl⟩ | ⟨hm, rfl⟩
    · exact .inl ⟨hr, .of_raiseError s q _⟩
    · exact .inr ⟨by simpa using hm, .of_raiseError s q _⟩
  · obtain ⟨c, hc, hwhy⟩ := s.endWait.buildError_of_cause (rExists := s.present nr)
      (srcMissing := !s.present na) (by simpa using h)
    simp only [State.sliceInto, State.present_endWait, hc]
    refine ⟨.of_raiseError s q c, ?_⟩
    rcases hwhy with ⟨hr, rfl⟩ | ⟨hm, rfl⟩
    · exact .inl ⟨hr, .of_raiseError s q _⟩
    · exact .inr ⟨by simpa using hm, .of_raiseError s q _⟩

/-! ### No space (U7) -/

/-- A union that holds more than STR_VAL keys is too large (R192). -/
theorem strVal_lt_length_union {ma mb : PairMap} (ha : ma.Sorted) (hb : mb.Sorted) (keepsA : Key → Bool)
    {ks : List Key} (hn : ks.Nodup) (hl : Config.strVal < ks.length)
    (h : ∀ j ∈ ks, (ma.get j).isSome ∨ (mb.get j).isSome) : Config.strVal < (PairMap.union keepsA ma mb).length :=
  hl.trans_le (PairMap.length_le_of_keys hn fun j hj => isSome_get_union keepsA j ha hb (h j hj))

/-- Settles O39: the oracle's `fail`, or a union that is too large, redraws the result structure alone. -/
theorem noSpaceRedrawsOnlyResult : Obligations.NoSpaceRedrawsOnlyResult := by
  intro s i q r a b key nr na nb k hok hcase hr ha
  rcases hcase with ⟨⟨op, rfl⟩, hs, hb, hans⟩ | ⟨⟨op, rfl, hunites⟩, hs, hb, ks, hnodup, hlen, hks⟩ |
    ⟨⟨op, rfl⟩, hs, hans⟩
  · refine ⟨_, exec_setOp_eq hs op q, ?_⟩
    rw [State.combine_of_present hr ha hb]
    exact State.storeResult_noSpace hok q _ (.inl hans)
  · refine ⟨_, exec_setOp_eq hs op q, ?_⟩
    rw [State.combine_of_present hr ha hb, SetOp.fn_of_unites hunites]
    refine State.storeResult_noSpace hok q _ (.inr ?_)
    refine strVal_lt_length_union (hok.map na).1 (hok.map nb).1 _ hnodup hlen fun j hj => ?_
    simpa only [s.lookup_eq] using hks j hj
  · refine ⟨_, exec_slice_eq hs op q, ?_⟩
    rw [State.sliceInto_of_present hr ha]
    exact State.storeResult_noSpace hok q _ (.inl hans)

end Sys2Proof.Machine

/-! The host (spec/10_state.md R38 to R70, spec/44_coprocessor_mode.md R232, R250 to R254): what each register does with
a write, what the window shows, then the statements that rest on it. -/

namespace Sys2Proof.Machine

/-! ### Writes to CMD (R232) -/

section Cmd

variable {s : State} {w : Reg}

theorem State.hostAccess_writeCmd (s : State) (w : Reg) : s.hostAccess (.write 0x40 4 w) = s.writeCmd w :=
  s.hostAccess_write_of_admitted (by decide) w

/-- A stopped entry drops the command (R234). -/
theorem State.writeCmd_of_stopped (he : s.entryStopped = true)
    (ha : assignedOpcode (cmdFields s.params.cmdLayout w).opc = true) : s.writeCmd w = .next s := by
  simp only [State.writeCmd, ha, he, if_true]

theorem State.writeCmd_of_room (he : s.entryStopped = false)
    (ha : assignedOpcode (cmdFields s.params.cmdLayout w).opc = true) (hl : s.c2s.length < s.params.c2sDepth) :
    s.writeCmd w = .next { s with c2s := s.c2s ++ [s.commandEntry (cmdFields s.params.cmdLayout w)] } := by
  have hfull : s.c2sFull = false := decide_eq_false (Nat.not_le.mpr hl)
  simp only [State.writeCmd, ha, he, hfull, if_true, Bool.false_eq_true, if_false]

/-- A full queue loses the command and sets OVF_FLAG when enabled (R235). -/
theorem State.writeCmd_of_full (he : s.entryStopped = false)
    (ha : assignedOpcode (cmdFields s.params.cmdLayout w).opc = true) (hl : s.params.c2sDepth ≤ s.c2s.length) :
    s.writeCmd w = .next { s with ovfFlag := s.ovfFlag || s.queueOvfEnabled } := by
  have hfull : s.c2sFull = true := decide_eq_true hl
  simp only [State.writeCmd, ha, he, hfull, if_true, Bool.false_eq_true, if_false]
  cases s.queueOvfEnabled with
  | true => simp
  | false => simp

/-- Of the opcodes that are not assigned only OPC_JT is not refused (R218, U2). -/
theorem State.writeCmd_of_not_assigned (ha : assignedOpcode (cmdFields s.params.cmdLayout w).opc = false) :
    s.writeCmd w = if (cmdFields s.params.cmdLayout w).opc = s.params.opcJt then .next s
      else .refused (.unassignedCommand (cmdFields s.params.cmdLayout w).opc) := by
  simp only [State.writeCmd, ha, Bool.false_eq_true, if_false]

end Cmd

/-- Settles O43: the three outcomes of a CMD write while entry is not stopped. -/
theorem cmdWriteQueuesCommand : Obligations.CmdWriteQueuesCommand := by
  rintro s w c rfl he
  refine ⟨fun ha hl => ?_, fun ha hl => ?_, fun ha hj => ?_⟩
  · exact (s.hostAccess_writeCmd w).trans (State.writeCmd_of_room he ha hl)
  · exact (s.hostAccess_writeCmd w).trans (State.writeCmd_of_full he ha hl)
  · rw [s.hostAccess_writeCmd, State.writeCmd_of_not_assigned ha, if_neg hj]

/-- Settles O42: the JT of the CPU has an arm of its own, and OPC_JT is not an assigned opcode. -/
theorem cpuJumpIsDiscarded : Obligations.CpuJumpIsDiscarded := by
  refine ⟨fun s t0 addr hi => by simp only [exec, execJt, hi], fun s w hp hj => ?_⟩
  have ha : assignedOpcode (cmdFields s.params.cmdLayout w).opc = false := by
    rw [hj]
    exact Params.opcJt_not_assigned hp
  rw [s.hostAccess_writeCmd, State.writeCmd_of_not_assigned ha, if_pos hj]

/-- Settles O44: with entry stopped a CMD write changes nothing, or is refused. -/
theorem entryStopKeepsCommandsOut : Obligations.EntryStopKeepsCommandsOut := by
  refine ⟨fun s t w he h => ?_, fun s w he ha => ?_, by decide⟩
  · rw [s.hostAccess_writeCmd] at h
    cases ha : assignedOpcode (cmdFields s.params.cmdLayout w).opc with
    | true =>
      rw [State.writeCmd_of_stopped he ha] at h
      rw [Host.Outcome.next.inj h]
    | false =>
      rw [State.writeCmd_of_not_assigned ha] at h
      split at h
      · rw [Host.Outcome.next.inj h]
      · cases h
  · exact (s.hostAccess_writeCmd w).trans (State.writeCmd_of_stopped he ha)

/-! ### CONTROL0 (R41 to R49) -/

/-- Settles O46: the enabled agents name the MISD stream only with bit 0, and only an enabled agent moves. -/
theorem misdRunsOnlyWhenEnabled : Obligations.MisdRunsOnlyWhenEnabled := by
  refine ⟨fun s h hm => ?_, fun s hb => ?_, by decide⟩
  · obtain ⟨he, -⟩ := s.mem_enabledAgents_misd.mp (State.mover_mem hm)
    exact absurd he (Bool.eq_false_iff.mp h)
  · rw [State.mem_enabledAgents_misd]
    exact and_iff_left hb

/-- The accesses that abandon a wait (R51, R57). -/
theorem HostAccess.abandonsWait_iff {a : HostAccess} :
    a.abandonsWait = true ↔ ∃ w : Reg, a = .write 0x48 4 w ∧ (w.getLsbD 6 = true ∨ w.getLsbD 0 = true) := by
  cases a with
  | write addr size v =>
    simp only [HostAccess.abandonsWait, Bool.and_eq_true, beq_iff_eq, Bool.or_eq_true, HostAccess.write.injEq]
    constructor
    · rintro ⟨⟨rfl, rfl⟩, hv⟩
      exact ⟨v, ⟨rfl, rfl, rfl⟩, hv⟩
    · rintro ⟨w, ⟨rfl, rfl, rfl⟩, hw⟩
      exact ⟨⟨rfl, rfl⟩, hw⟩
  | _ => simp [HostAccess.abandonsWait]

/-- The host's next access abandons the wait (U11, log 11). -/
theorem State.head_abandonsWait_iff {s : State} :
    s.pci2sys.head?.any HostAccess.abandonsWait = true ↔
      ∃ w rest, s.pci2sys = .write 0x48 4 w :: rest ∧ (w.getLsbD 6 = true ∨ w.getLsbD 0 = true) := by
  cases h : s.pci2sys with
  | nil => simp
  | cons a rest =>
    simp only [List.head?_cons, Option.any_some, HostAccess.abandonsWait_iff, List.cons.injEq]
    constructor
    · rintro ⟨w, rfl, hw⟩
      exact ⟨w, rest, ⟨rfl, rfl⟩, hw⟩
    · rintro ⟨w, rest', ⟨rfl, rfl⟩, hw⟩
      exact ⟨w, rfl, hw⟩

/-- Settles O47, refusal by refusal of the write. -/
theorem control0WriteReplacesValue : Obligations.Control0WriteReplacesValue := by
  intro s v
  have hwrite : s.hostAccess (.write 0x44 4 v) = s.writeControl0 v := s.hostAccess_write_of_admitted (by decide) v
  have hdma (h : v.getLsbD 2 = false ∨ v.getLsbD 3 = false) : ¬(v.getLsbD 2 && v.getLsbD 3) = true := by
    exact Bool.eq_false_iff.mp (Bool.and_eq_false_iff.mpr h)
  rw [hwrite]
  refine ⟨fun h2 h3 => ?_, fun h23 hgo => ?_, fun h23 h0 hb hhead => ?_⟩
  · exact if_pos (by rw [h2, h3]; rfl)
  · refine (if_neg (hdma h23)).trans (if_neg ?_)
    simp only [Bool.and_eq_true, Bool.not_eq_true', not_and, Bool.not_eq_false, and_imp]
    intro hb h0
    rcases hgo with hgo | hgo | hgo
    · exact absurd hgo (Bool.eq_false_iff.mp h0)
    · exact absurd hb (Bool.eq_false_iff.mp hgo)
    · exact State.head_abandonsWait_iff.mpr hgo
  · refine (if_neg (hdma h23)).trans (if_pos ?_)
    have hno : s.pci2sys.head?.any HostAccess.abandonsWait = false := by
      refine Bool.eq_false_iff.mpr fun hc => ?_
      obtain ⟨w, rest, hp, hw⟩ := State.head_abandonsWait_iff.mp hc
      obtain ⟨h6, h0'⟩ := hhead w rest hp
      rw [h6, h0'] at hw
      simp at hw
    rw [hb, h0, hno]
    rfl

/-! ### CONTROL1 (R50 to R57) -/

/-- Settles O50: without bit 4 no CONTROL1 write is refused, and each bit written alone is one action. -/
theorem control1ResetsSubsystems : Obligations.Control1ResetsSubsystems := by
  intro s
  refine ⟨?_, ?_, ?_, ?_, ?_, s.softwareReset, ?_, ?_⟩
  · exact State.hostAccess_writeControl1 (v := 0x000) (by simp)
  · exact State.hostAccess_writeControl1 (v := 0x002) (by simp)
  · exact State.hostAccess_writeControl1 (v := 0x004) (by simp)
  · exact State.hostAccess_writeControl1 (v := 0x020) (by simp)
  · exact State.hostAccess_writeControl1 (v := 0x040) (by simp)
  · exact State.hostAccess_writeControl1 (v := 0x001) (by simp)
  · refine ⟨fun n => State.present_eq_false_iff.mpr (State.structure?_of_replicate rfl n), ?_⟩
    exact ⟨rfl, rfl, rfl, rfl, rfl, rfl, rfl, rfl, rfl, rfl, rfl, rfl, rfl, rfl, rfl, rfl, rfl, rfl, rfl, rfl, rfl, rfl,
      rfl, rfl, rfl⟩

/-! ### Operand registers (R36, R250 to R254) -/

/-- The LMD registers stand at the offsets from 0xC0 on (R38). -/
theorem State.writeWindow_lmd (s : State) {addr : Nat} (h : 0xC0 ≤ addr) (v : Reg) :
    s.writeWindow addr v = s.writeLmd ((addr - 0xC0) / 4) v := by
  unfold State.writeWindow
  split
  case h_16 => exact if_pos h
  all_goals omega

/-- An offset that names no write side is refused (R39, U4). -/
theorem State.writeWindow_noWriteSide (s : State) {addr : Nat} (h : addr < 0xC0)
    (hs : addr ∉ [0x00, 0x04, 0x20, 0x24, 0x40, 0x44, 0x48, 0x50, 0x54, 0x58, 0x5C, 0x60, 0x80, 0x84, 0x88]) (v : Reg) :
    s.writeWindow addr v = .refused (.noWriteSide addr) := by
  unfold State.writeWindow
  split
  case h_16 => exact if_neg (Nat.not_le.mpr h)
  all_goals simp at hs

/-- The index of an LMD register is in bounds. -/
theorem vector_setIfInBounds_eq_set {α : Type} {n : Nat} (xs : Vector α n) (i : Fin n) (x : α) :
    xs.setIfInBounds i x = xs.set i x := by
  ext j hj
  simp [Vector.getElem_setIfInBounds, Vector.getElem_set]

/-- The accesses of the window that are not refused (R84, D26). -/
theorem admittedAccess_iff {addr size : Nat} :
    admittedAccess addr size = true ↔ size = 4 ∧ addr % 4 = 0 ∧ addr < 256 := by
  simp [admittedAccess, and_assoc]

/-- Settles O51, register by register. -/
theorem operandRegisterWritesStore : Obligations.OperandRegisterWritesStore := by
  intro s v
  have hwrite (addr : Nat) (h : admittedAccess addr 4 = true) := s.hostAccess_write_of_admitted h v
  refine ⟨hwrite 0x00 (by decide), hwrite 0x04 (by decide), hwrite 0x20 (by decide), hwrite 0x24 (by decide),
    hwrite 0x50 (by decide), fun h => ?_, fun h => ?_, hwrite 0x58 (by decide), fun h => ?_, fun h => ?_, fun i => ?_⟩
  · exact (hwrite 0x54 (by decide)).trans (congrArg Host.Outcome.next (if_neg (Bool.eq_false_iff.mp h)))
  · exact ⟨_, (hwrite 0x54 (by decide)).trans (congrArg Host.Outcome.next (if_pos h))⟩
  · exact (hwrite 0x5C (by decide)).trans (congrArg Host.Outcome.next (if_neg (Bool.eq_false_iff.mp h)))
  · exact ⟨_, (hwrite 0x5C (by decide)).trans (congrArg Host.Outcome.next (if_pos h))⟩
  · have hi : (0xC0 + 4 * i.val - 0xC0) / 4 = i.val := by omega
    have hadmitted : admittedAccess (0xC0 + 4 * i.val) 4 = true := admittedAccess_iff.mpr (by omega)
    rw [hwrite _ hadmitted, s.writeWindow_lmd (by omega), hi]
    rw [State.writeLmd, vector_setIfInBounds_eq_set]
    rfl

/-- Settles O55: only aligned 32-bit accesses inside the window reach a register. -/
theorem badAccessesAreRefused : Obligations.BadAccessesAreRefused := by
  refine ⟨fun s addr size h => ?_, fun s addr v h4 hlt hs => ?_⟩
  · have hbad : ¬admittedAccess addr size = true := fun hc => by
      rw [admittedAccess_iff] at hc
      omega
    exact ⟨if_neg hbad, fun v => if_neg hbad⟩
  · rw [s.hostAccess_write_of_admitted (admittedAccess_iff.mpr (by omega))]
    exact s.writeWindow_noWriteSide hlt hs v

/-! ### Reads of the window (R38, R60, R70) -/

theorem State.hostAccess_read_of_admitted (s : State) {addr : Nat} (h : admittedAccess addr 4 = true) :
    s.hostAccess (.read addr 4) = .next { s with
      sys2pci := s.sys2pci ++ [.word (s.readWindow addr (Config.anyWord s.draws))] } :=
  if_pos h

/-- With LSM behind the LMD registers a read of LMDi shows part i of the head of the read queue (R252). -/
theorem State.readWindow_lmd {s : State} (hwf : s.params.wf) (any : Reg) {d : BitVec 512} {rest : List (BitVec 512)}
    (hd : s.dmaRead = d :: rest) (hl : s.lsmDma = true) (i : Fin 16) :
    s.readWindow (0xC0 + 4 * i) any = d.extractLsb' (32 * i) 32 := by
  have hne : 0xC0 + 4 * i.val ≠ s.params.state1Offset := Params.ne_state1Offset_of_wf hwf (by simp; omega)
  have hi : (0xC0 + 4 * i.val - 0xC0) / 4 = i.val := by omega
  unfold State.readWindow
  rw [if_neg hne]
  split
  case h_18 =>
    rw [if_pos (by omega), hi]
    simp [State.readLmd, hl, hd]
  all_goals omega

/-- A read of LCMDi shows part i of the head of the read queue (R252). -/
theorem State.readWindow_lcmd {s : State} (hwf : s.params.wf) (any : Reg) {d : BitVec 512} {rest : List (BitVec 512)}
    (hd : s.dmaRead = d :: rest) (i : Fin 5) :
    s.readWindow (0xA0 + 4 * i) any = d.extractLsb' (32 * i) 32 := by
  have hne : 0xA0 + 4 * i.val ≠ s.params.state1Offset := Params.ne_state1Offset_of_wf hwf (by simp; omega)
  unfold State.readWindow
  rw [if_neg hne]
  fin_cases i <;> simp [State.readLcmd, hd]

/-- Settles O52, register by register. -/
theorem windowReadsReturnRegisters : Obligations.WindowReadsReturnRegisters := by
  intro s addr hwf h4 hlt
  have hne {a : Nat} (h : a ∉ [0x94, 0x98, 0x9C]) := Params.ne_state1Offset_of_wf hwf h
  refine ⟨_, s.hostAccess_read_of_admitted (admittedAccess_iff.mpr ⟨rfl, h4, hlt⟩), ?_, ?_, ?_, ?_,
    fun e rest hs => ⟨?keyLow, ?keyHigh, ?valueLow, ?valueHigh⟩, ?_, ?_, ?_, fun _ => ⟨_, rfl⟩, ?lcmd, ?lmd⟩
  case lcmd =>
    rintro d rest i hd rfl
    exact State.readWindow_lcmd hwf _ hd i
  case lmd =>
    rintro d rest i hd hl rfl
    exact State.readWindow_lmd hwf _ hd hl i
  case keyLow | keyHigh | valueLow | valueHigh =>
    rintro rfl
    refine (if_neg (hne (by decide))).trans ?_
    simp only [hs]
    rfl
  all_goals
    rintro rfl
    exact if_neg (hne (by decide))

/-- What a read of STATE1 shows in bits 0 to 7 (R70). -/
theorem State.readWindow_state1_getLsbD (s : State) (any : Reg) {i : Nat} (h : i < 8) :
    (s.readWindow s.params.state1Offset any).getLsbD i =
      [s.pci2sysEmpty, s.pci2sysFull, s.s2cEmpty, s.s2cFull, s.sys2pciEmpty, s.c2sEmpty, s.dataReadyLine,
        s.queueOvfLine][i]! := by
  have hread : s.readWindow s.params.state1Offset any = s.state1 any := if_pos rfl
  rw [hread]
  exact withLowByte_getLsbD _ _ _ _ _ _ _ _ _ i h

/-- S2C is full exactly when it holds as many entries as its depth, which bounds them (R33, R70). -/
theorem State.s2cFull_iff {s : State} (hq : s.QueuesOk) : s.s2cFull = true ↔ s.s2c.length = s.params.s2cDepth := by
  obtain ⟨-, hle, -⟩ := hq
  simp only [State.s2cFull, decide_eq_true_eq]
  omega

/-- Settles O54, bit by bit of the low bytes of STATE0 and STATE1. -/
theorem statusBitsFollowState : Obligations.StatusBitsFollowState := by
  intro s any hwf hq
  have h0 {i : Nat} (h : i < 8) := State.readWindow_state0_getLsbD hwf any h
  have h1 {i : Nat} (h : i < 8) := s.readWindow_state1_getLsbD any h
  refine ⟨?_, ?_, ?_, ?_, ?_, ?_, ?_, ?_, ?_, ?_, ?_⟩
  · rw [h0 (by decide)]
    exact List.isEmpty_iff
  · rw [h0 (by decide)]
    rfl
  · rw [h0 (by decide)]
    rfl
  · rw [h1 (by decide)]
    exact List.isEmpty_iff
  · rw [h1 (by decide)]
    exact decide_eq_true_iff
  · rw [h1 (by decide)]
    exact List.isEmpty_iff
  · rw [h1 (by decide)]
    exact State.s2cFull_iff hq
  · rw [h1 (by decide)]
    exact List.isEmpty_iff
  · rw [h1 (by decide)]
    exact List.isEmpty_iff
  · rw [h1 (by decide)]
    rfl
  · rw [h1 (by decide)]
    rfl

/-! ### LCM (R251, R253) -/

/-- Settles O56: a load is a write of LCM, and a fetched command is not read from LCM again. -/
theorem lcmLoadIsSeenByFetch : Obligations.LcmLoadIsSeenByFetch := by
  refine fun s a c => ⟨fun h => if_pos (Bool.or_eq_true_iff.mpr h), fun hm hb ha => ?_⟩
  have hread (b : Nat) : Memory.read (s.lcm.write a c) b = if b = a then some c else s.lcm.read b := by
    rw [Memory.read_write, if_congr eq_comm rfl rfl]
  have hload : s.hostAccess (.loadLcm a c) = .next { s with lcm := s.lcm.write a c } :=
    (if_neg (by simp [hm, hb])).trans (if_pos ha)
  refine ⟨_, hload, rfl, hread, fun hf hip i hd => ?_, fun c' hf i hd => ?_, ?_⟩
  · exact State.fetch_eq_ok (.inr ⟨hf, hip ▸ ha, (hread _).trans (if_pos hip)⟩) hd
  · exact State.fetch_eq_ok (.inl hf) hd
  · refine (if_pos ha).trans ?_
    simp only [hread, if_true]
    rfl

end Sys2Proof.Machine

/-! The step (spec/20_memory.md R91, spec/43_jump.md R211 to R213): what it does by the agent that moves, then the
statements that rest on it. -/

namespace Sys2Proof.Machine

/-! ### The step of each agent -/

section Step

variable {s : State} (hr : s.rst = false)

include hr

theorem step_of_misd (hm : s.mover = some .misd) : step s = s.beginStep.misdStep := by
  simp only [step, hr, hm, Bool.false_eq_true, if_false]

theorem step_of_coprocessor (hm : s.mover = some .coprocessor) : step s = s.beginStep.coprocessorStep := by
  simp only [step, hr, hm, Bool.false_eq_true, if_false]

theorem step_of_host (hm : s.mover = some .host) : step s = s.beginStep.hostStep := by
  simp only [step, hr, hm, Bool.false_eq_true, if_false]

/-- With nothing to do only the clock runs, and the turn and the draw number are used. -/
theorem step_of_idle (hp : s.pci2sys = []) (hc : s.c2s = []) (hm : s.misdEnabled = false ∨ s.wait.blocked = true) :
    step s = .next s.beginStep := by
  have hnone : s.mover = none := by
    rw [State.mover_eq_none_iff]
    rcases hm with hm | hm <;> simp [State.enabledAgents, hp, hc, hm]
  simp only [step, hr, hnone, Bool.false_eq_true, if_false]

end Step

/-- The clock, the draw number and the turn do not change what is fetched. -/
theorem State.fetch_beginStep (s : State) : s.beginStep.fetch = s.fetch :=
  State.fetch_congr (by simp) (by simp) (by simp) (by simp)

/-- Settles O5: the MISD stream moves, and its fetch gives the command. -/
theorem stepRunsDecodedCommand : Obligations.StepRunsDecodedCommand := by
  intro s c i hm hc hd
  have hf : s.beginStep.fetch = .ok (c, i) := s.fetch_beginStep.trans (State.fetch_eq_ok hc hd)
  rw [step_of_misd hm.1 hm.mover, State.misdStep, hf]
  rfl

/-- Settles O6: the coprocessor stream moves, and takes the oldest entry. -/
theorem stepRunsQueuedCommand : Obligations.StepRunsQueuedCommand := by
  intro s e rest i hm hc hi
  rw [step_of_coprocessor hm.1 hm.mover]
  simp only [State.coprocessorStep, State.beginStep_c2s, hc, hi]
  rfl

/-- Settles O7: the host moves, and its oldest access is performed. -/
theorem stepPerformsHostAccess : Obligations.StepPerformsHostAccess := by
  intro s a rest hm hp
  rw [step_of_host hm.1 hm.mover]
  simp only [State.hostStep, State.beginStep_pci2sys, hp]
  rfl

/-- What the end of a MISD run says (R219, D35). -/
theorem State.runEnded_iff {s : State} {final : Nat} :
    s.runEnded final = true ↔ s.wait.blocked = true ∧ s.ip = final ∧ s.c2s = [] := by
  simp [State.runEnded, and_assoc]

/-- Settles O8: no agent can move, and the end of a run is no matter of the clock. -/
theorem idleMachineExecutesNothing : Obligations.IdleMachineExecutesNothing := by
  refine fun s hr hp => ⟨fun hc hm => step_of_idle hr hp hc hm, fun final hend => ?_⟩
  obtain ⟨hb, hip, hc⟩ := State.runEnded_iff.mp hend
  refine ⟨hb, hip, hc, _, step_of_idle hr hp hc (.inr hb), State.runEnded_iff.mpr ?_, fun n => by simp⟩
  simpa using ⟨hb, hip, hc⟩

/-- A fetch that stops, stops the step of the MISD stream. -/
theorem step_of_fetch_error {s : State} {f : Fault} (hm : MisdMoves s) (hf : s.fetch = .error f) :
    step s = .fault f := by
  rw [step_of_misd hm.1 hm.mover, State.misdStep, s.fetch_beginStep, hf]

/-- Settles O9, by the three ways the fetch stops. -/
theorem fetchStopsByName : Obligations.FetchStopsByName := by
  refine fun s hm hn => ⟨fun hip => step_of_fetch_error hm ?_, fun hip hl => step_of_fetch_error hm ?_,
    fun c opc hip hl hd => step_of_fetch_error hm ?_⟩
  · simp only [State.fetch, State.fetchSlot, hn, if_neg (Nat.not_lt.mpr hip)]
  · simp only [State.fetch, State.fetchSlot, hn, if_pos hip, hl]
  · simp only [State.fetch, State.fetchSlot, hn, if_pos hip, hl, hd]

/-! ### Resets -/

/-- Settles O12: the values of the reset state, from which no agent can move. -/
theorem resetLeavesDecidedValues : Obligations.ResetLeavesDecidedValues := by
  refine ⟨rfl, fun n => State.present_eq_false_iff.mpr (State.structure?_of_replicate rfl n), fun a => rfl, rfl, rfl,
    rfl, rfl, rfl, rfl, rfl, rfl, rfl, rfl, rfl, rfl, ?_⟩
  exact step_of_idle rfl rfl rfl (.inl (by decide))

/-- Settles O13: with RST asserted the step is the hardware reset. -/
theorem hardwareResetClears : Obligations.HardwareResetClears := by
  intro s hr
  refine ⟨s.beginStep.hardwareReset, if_pos hr, rfl,
    fun n => State.present_eq_false_iff.mpr (State.structure?_of_replicate rfl n), fun a => rfl, ?_⟩
  exact ⟨rfl, rfl, rfl, rfl, rfl, rfl, rfl, rfl, rfl, rfl, rfl, rfl, rfl, rfl, s.beginStep_params⟩

/-! ### What a step keeps -/

/-- What every step but a write of CONTROL1 and a hardware reset keeps, and what it changes by whose move. -/
structure Kept (s t : State) : Prop where
  params : t.params = s.params
  tsc : t.tsc = s.beginStep.tsc
  drFlag : s.drFlag = true → t.drFlag = true
  ovfFlag : s.ovfFlag = true → t.ovfFlag = true
  owr : s.owr = true → t.owr = true
  ip : t.ip ≠ s.ip → s.mover = some .misd
  control0 : t.control0 ≠ s.control0 → HostWrites s 0x44 t.control0
  lcm : t.lcm ≠ s.lcm → s.misdEnabled = false ∧ s.mover = some .host ∧
    ∃ a c, s.pci2sys.head? = some (.loadLcm a c) ∧ t.lcm = s.lcm.write a c

/-- A stream's command keeps what every command keeps. -/
theorem Kept.of_exec {i : Instr} {s t : State} {q : List CommandEntry} {f : Option Slot} {stream : Stream}
    (h : exec i { s.beginStep with c2s := q, fetched := f, issuer := stream } = .next t)
    (hi : stream = .coprocessor ∨ s.mover = some .misd) : Kept s t := by
  obtain ⟨hu, hcoprocessor, hdr, howr⟩ := exec_frame h
  refine ⟨hu.params.trans s.beginStep_params, hu.tsc, fun hs => hdr (s.beginStep_drFlag.trans hs),
    fun hs => hu.ovfFlag.trans (s.beginStep_ovfFlag.trans hs), fun hs => howr (s.beginStep_owr.trans hs),
    fun hne => ?_, fun hne => ?_, fun hne => ?_⟩
  · rcases hi with hi | hi
    · obtain ⟨hip, -⟩ := hcoprocessor hi
      exact absurd (hip.trans s.beginStep_ip) hne
    · exact hi
  · exact absurd (hu.control0.trans s.beginStep_control0) hne
  · exact absurd (hu.lcm.trans s.beginStep_lcm) hne

/-- A step without a reset keeps the machine in this way, or performs the host's write of CONTROL1. -/
theorem step_keeps {s t : State} (hr : s.rst = false) (h : step s = .next t) :
    Kept s t ∨ ∃ v rest, HostWrites s 0x48 v ∧ t = State.control1Actions v { s.beginStep with pci2sys := rest } := by
  rcases step_next h with ⟨hr', -⟩ | ⟨-, -, rfl⟩ | ⟨-, hm, a, rest, hp, ha⟩ | ⟨-, -, e, rest, i, -, -, hx⟩ |
    ⟨-, hm, c, i, -, hx⟩
  case inl => simp [hr] at hr'
  case inr.inl => exact .inl (by constructor <;> simp)
  case inr.inr.inl =>
    have hhead : s.pci2sys.head? = some a := by rw [hp, List.head?_cons]
    rcases State.hostAccess_cases ha with ⟨v, rfl, rfl⟩ | ⟨hip, hdr, hovf, howr, htsc, hparams, hc, hl⟩
    · exact .inr ⟨v, rest, ⟨hr, hm, hhead⟩, rfl⟩
    · simp only [State.beginStep_ip, State.beginStep_drFlag, State.beginStep_ovfFlag, State.beginStep_owr,
        State.beginStep_params, State.beginStep_control0, State.beginStep_lcm] at hip hdr hovf howr hparams hc hl
      refine .inl ⟨hparams, htsc, hdr, hovf, howr, fun hne => absurd hip hne, fun hne => ⟨hr, hm, ?_⟩, fun hne => ?_⟩
      · rw [hhead, hc hne]
      · obtain ⟨he, b, c, rfl, hw⟩ := hl hne
        exact ⟨by simpa [State.misdEnabled] using he, hm, b, c, hhead, hw⟩
  case inr.inr.inr.inl => exact .inl (.of_exec (f := s.beginStep.fetched) hx (.inl rfl))
  case inr.inr.inr.inr => exact .inl (.of_exec (q := s.beginStep.c2s) hx (.inr hm))

/-- What a write of CONTROL1 without bit 0 leaves of IP and the flags (R53, R57 to R59). -/
theorem State.control1Actions_of_bit0_clear (s : State) {v : Reg} (h : v.getLsbD 0 = false) :
    (s.control1Actions v).ip = (if v.getLsbD 6 = true then 0 else s.ip) ∧
    (s.control1Actions v).drFlag = (if v.getLsbD 7 = true then false else s.drFlag) ∧
    (s.control1Actions v).ovfFlag = (if v.getLsbD 8 = true then false else s.ovfFlag) ∧
    (s.control1Actions v).owr = (if v.getLsbD 2 = true then false else s.owr) := by
  rw [State.control1Actions_eq, h]
  exact ⟨rfl, rfl, rfl, rfl⟩

/-- A write of CONTROL1 with bit 0 sets IP to 0 (R51, R76). -/
theorem State.control1Actions_ip_of_bit0 (s : State) {v : Reg} (h : v.getLsbD 0 = true) :
    (s.control1Actions v).ip = 0 := by
  rw [State.control1Actions_eq, h]
  exact ite_self 0

/-- A flag falls in a write of CONTROL1 without bit 0 only with its own bit. -/
theorem bit_of_flag_cleared {b old new : Bool} (hold : old = true) (hnew : new = false)
    (h : new = if b = true then false else old) : b = true := by
  by_contra hb
  rw [h, if_neg hb, hold] at hnew
  cases hnew

/-- Settles O57: IP stays, or the MISD stream moves, or CONTROL1 sets it to 0. -/
theorem onlyJumpsAndFetchMoveIp : Obligations.OnlyJumpsAndFetchMoveIp := by
  intro s t hr h hne
  rcases step_keeps hr h with hk | ⟨v, rest, hw, rfl⟩
  · exact .inl (hk.ip hne)
  · right
    cases h0 : v.getLsbD 0 with
    | true => exact ⟨State.control1Actions_ip_of_bit0 _ h0, v, hw, .inr h0⟩
    | false =>
      obtain ⟨hip, -⟩ := State.control1Actions_of_bit0_clear { s.beginStep with pci2sys := rest } h0
      by_cases h6 : v.getLsbD 6 = true
      · exact ⟨hip.trans (if_pos h6), v, hw, .inl h6⟩
      · exact absurd (hip.trans ((if_neg h6).trans s.beginStep_ip)) hne

/-- Settles O58, flag by flag. -/
theorem flagsStayUntilCleared : Obligations.FlagsStayUntilCleared := by
  intro s t hr h
  rcases step_keeps hr h with hk | ⟨v, rest, hw, rfl⟩
  · refine ⟨fun hs ht => ?_, fun hs ht => ?_, fun hs ht => ?_⟩
    · simp [hk.drFlag hs] at ht
    · simp [hk.ovfFlag hs] at ht
    · simp [hk.owr hs] at ht
  · cases h0 : v.getLsbD 0 with
    | true => exact ⟨fun _ _ => ⟨v, hw, .inr h0⟩, fun _ _ => ⟨v, hw, .inr h0⟩, fun _ _ => ⟨v, hw, .inr h0⟩⟩
    | false =>
      obtain ⟨-, hdr, hovf, howr⟩ := State.control1Actions_of_bit0_clear { s.beginStep with pci2sys := rest } h0
      refine ⟨fun hs ht => ⟨v, hw, .inl ?_⟩, fun hs ht => ⟨v, hw, .inl ?_⟩, fun hs ht => ⟨v, hw, .inl ?_⟩⟩
      · exact bit_of_flag_cleared (s.beginStep_drFlag.trans hs) ht hdr
      · exact bit_of_flag_cleared (s.beginStep_ovfFlag.trans hs) ht hovf
      · exact bit_of_flag_cleared (s.beginStep_owr.trans hs) ht howr

/-- Settles O59: a write of CONTROL1 keeps all three, and LCM is read back after the load. -/
theorem onlyHostWritesControl0AndLcm : Obligations.OnlyHostWritesControl0AndLcm := by
  intro s t hr h
  rcases step_keeps hr h with hk | ⟨v, rest, -, rfl⟩
  · refine ⟨hk.params, hk.control0, fun hne => ?_⟩
    obtain ⟨he, hm, a, c, hhead, hw⟩ := hk.lcm hne
    refine ⟨he, hm, a, c, hhead, fun b => ?_⟩
    rw [hw, Memory.read_write, if_congr eq_comm rfl rfl]
  · obtain ⟨hc, hl, hp, -⟩ := State.control1Actions_frame { s.beginStep with pci2sys := rest } v
    exact ⟨hp.trans s.beginStep_params, fun hne => absurd (hc.trans s.beginStep_control0) hne,
      fun hne => absurd (hl.trans s.beginStep_lcm) hne⟩

/-- Settles O60: TSC runs as the step begins, and only CONTROL1 bit 3 writes it after that. -/
theorem tscGrowsOnlyWhileEnabled : Obligations.TscGrowsOnlyWhileEnabled := by
  intro s t hr h
  have hbegin := s.beginStep_tsc
  rcases step_keeps hr h with hk | ⟨v, rest, hw, rfl⟩
  · exact .inr (by rwa [hk.tsc])
  · obtain ⟨-, -, -, htsc⟩ := State.control1Actions_frame { s.beginStep with pci2sys := rest } v
    by_cases h3 : v.getLsbD 3 = true
    · exact .inl ⟨v, hw, h3, htsc.trans (if_pos h3)⟩
    · right
      rwa [htsc, if_neg h3]

end Sys2Proof.Machine
